-- ==== Sys2Proof/Word.lean ====
section
/-! DEFINITION. The widths of the machine: bytes, 16-bit words, 4-bit fields and 12-bit addresses
(spec/00_scope.md R4, R7; spec/30_encoding.md R71). Every value is an unsigned bit vector, bit 0 the least significant. -/

namespace Sys2Proof

/-- An 8-bit value: a general register, a memory byte, a timer, an `NN` field (R20, R26, R29). -/
abbrev Byte := BitVec 8

/-- A 16-bit value: an instruction word, `I`, `pc`, a call-stack entry (R22, R23, R25, R70). -/
abbrev Word := BitVec 16

/-- A 4-bit field of an instruction word: `X`, `Y` or `N`; as a register index it names `V0` to `VF`, as a
key index one of the 16 keys (R20, R27, R71). -/
abbrev Nibble := BitVec 4

/-- The 12-bit field `NNN` (R71). -/
abbrev Addr12 := BitVec 12

end Sys2Proof
end

