-- ==== Sys2Proof/Syntax.lean ====
section
/-! DEFINITION. The 34 instructions of spec/30_encoding.md R76 (spec/opcode_table.json), one constructor a row, in
the table's order, with the row's fields as arguments. `x` and `y` are register indices, `nn`, `nnn`, `n` immediates. -/

namespace Sys2Proof

inductive Instr where
  /-- 00E0 `CLS` (R140) -/
  | cls
  /-- 00EE `RET` (R100) -/
  | ret
  /-- 1NNN `JP nnn` (R101) -/
  | jp (nnn : Addr12)
  /-- 2NNN `CALL nnn` (R102) -/
  | call (nnn : Addr12)
  /-- 3XNN `SE Vx, nn` (R103) -/
  | seImm (x : Nibble) (nn : Byte)
  /-- 4XNN `SNE Vx, nn` (R104) -/
  | sneImm (x : Nibble) (nn : Byte)
  /-- 5XY0 `SE Vx, Vy` (R105) -/
  | seReg (x y : Nibble)
  /-- 6XNN `LD Vx, nn` (R110) -/
  | ldImm (x : Nibble) (nn : Byte)
  /-- 7XNN `ADD Vx, nn` (R111) -/
  | addImm (x : Nibble) (nn : Byte)
  /-- 8XY0 `LD Vx, Vy` (R112) -/
  | ldReg (x y : Nibble)
  /-- 8XY1 `OR Vx, Vy` (R113) -/
  | or (x y : Nibble)
  /-- 8XY2 `AND Vx, Vy` (R114) -/
  | and (x y : Nibble)
  /-- 8XY3 `XOR Vx, Vy` (R115) -/
  | xor (x y : Nibble)
  /-- 8XY4 `ADD Vx, Vy` (R116) -/
  | addReg (x y : Nibble)
  /-- 8XY5 `SUB Vx, Vy` (R117) -/
  | sub (x y : Nibble)
  /-- 8XY6 `SHR Vx, Vy` (R118) -/
  | shr (x y : Nibble)
  /-- 8XY7 `SUBN Vx, Vy` (R119) -/
  | subn (x y : Nibble)
  /-- 8XYE `SHL Vx, Vy` (R120) -/
  | shl (x y : Nibble)
  /-- 9XY0 `SNE Vx, Vy` (R106) -/
  | sneReg (x y : Nibble)
  /-- ANNN `LD I, nnn` (R130) -/
  | ldI (nnn : Addr12)
  /-- BNNN `JP V0, nnn` (R107). The row lists the field `X` beside `NNN`: `x` is the top digit of `nnn`. -/
  | jpV0 (x : Nibble) (nnn : Addr12)
  /-- CXNN `RND Vx, nn` (R121) -/
  | rnd (x : Nibble) (nn : Byte)
  /-- DXYN `DRW Vx, Vy, n` (R141) -/
  | drw (x y n : Nibble)
  /-- EX9E `SKP Vx` (R150) -/
  | skp (x : Nibble)
  /-- EXA1 `SKNP Vx` (R151) -/
  | sknp (x : Nibble)
  /-- FX07 `LD Vx, DT` (R160) -/
  | ldVxDt (x : Nibble)
  /-- FX0A `LD Vx, K` (R152) -/
  | ldVxK (x : Nibble)
  /-- FX15 `LD DT, Vx` (R161) -/
  | ldDtVx (x : Nibble)
  /-- FX18 `LD ST, Vx` (R162) -/
  | ldStVx (x : Nibble)
  /-- FX1E `ADD I, Vx` (R131) -/
  | addI (x : Nibble)
  /-- FX29 `LD F, Vx` (R132) -/
  | ldF (x : Nibble)
  /-- FX33 `LD B, Vx` (R133) -/
  | ldB (x : Nibble)
  /-- FX55 `LD [I], Vx` (R134) -/
  | storeRegs (x : Nibble)
  /-- FX65 `LD Vx, [I]` (R135) -/
  | loadRegs (x : Nibble)
deriving DecidableEq, Repr

end Sys2Proof
end

