-- ==== Sys2Proof/WellFormed.lean ====
section
/-! DEFINITION. Which instruction terms some word encodes. Every field has exactly its encoding's width by its type
(R71), so every value of a free field is legal (spec/95_test_vectors.md V30-9); the one relation between two fields
is BNNN's, whose `X` and `NNN` overlap (`NNN = X ++ NN`, R71). -/

namespace Sys2Proof

/-- The top digit of `NNN`, which is the field `X` of the same word (R71). -/
def topDigit (nnn : Addr12) : Nibble := nnn.extractLsb' 8 4

def Instr.wellFormed : Instr → Bool
  | .jpV0 x nnn => x == topDigit nnn
  | .cls | .ret | .jp _ | .call _ | .seImm _ _ | .sneImm _ _ | .seReg _ _ | .ldImm _ _ | .addImm _ _ => true
  | .ldReg _ _ | .or _ _ | .and _ _ | .xor _ _ | .addReg _ _ | .sub _ _ | .shr _ _ | .subn _ _ | .shl _ _ => true
  | .sneReg _ _ | .ldI _ | .rnd _ _ | .drw _ _ _ | .skp _ | .sknp _ | .ldVxDt _ | .ldVxK _ | .ldDtVx _ => true
  | .ldStVx _ | .addI _ | .ldF _ | .ldB _ | .storeRegs _ | .loadRegs _ => true

end Sys2Proof
end

