-- ==== Sys2Proof/Decode.lean ====
section
/-! DEFINITION. Decoding and encoding (spec/30_encoding.md R70 to R79): the fields of a word, the decoder, total on
words and on byte lists and rejecting by name, the encoder, and the opcode map's masks and matches. -/

namespace Sys2Proof

/-- Two bytes as a big-endian word: the first is bits 15 to 8 (R54). -/
def joinBytes (hi lo : Byte) : Word := BitVec.ofNat 16 (hi.toNat * 256 + lo.toNat)

/-- `G = op[15:12]` (R71). -/
def fieldG (op : Word) : Nibble := op.extractLsb' 12 4
/-- `X = op[11:8]` (R71). -/
def fieldX (op : Word) : Nibble := op.extractLsb' 8 4
/-- `Y = op[7:4]` (R71). -/
def fieldY (op : Word) : Nibble := op.extractLsb' 4 4
/-- `N = op[3:0]` (R71). -/
def fieldN (op : Word) : Nibble := op.extractLsb' 0 4
/-- `NN = op[7:0]` (R71). -/
def fieldNN (op : Word) : Byte := op.extractLsb' 0 8
/-- `NNN = op[11:0]` (R71). -/
def fieldNNN (op : Word) : Addr12 := op.extractLsb' 0 12

/-- Group 0: the two exact words 0x00E0 and 0x00EE (R76, R77). -/
def decodeGroup0 (op : Word) : Option Instr :=
  if op = 0x00E0#16 then some .cls else if op = 0x00EE#16 then some .ret else none

/-- Group 8: the low digit selects the operation (R76); 8 to D and F are illegal (R77). -/
def decodeGroup8 (op : Word) : Option Instr :=
  match (fieldN op).toNat with
  | 0x0 => some (.ldReg (fieldX op) (fieldY op))
  | 0x1 => some (.or (fieldX op) (fieldY op))
  | 0x2 => some (.and (fieldX op) (fieldY op))
  | 0x3 => some (.xor (fieldX op) (fieldY op))
  | 0x4 => some (.addReg (fieldX op) (fieldY op))
  | 0x5 => some (.sub (fieldX op) (fieldY op))
  | 0x6 => some (.shr (fieldX op) (fieldY op))
  | 0x7 => some (.subn (fieldX op) (fieldY op))
  | 0xE => some (.shl (fieldX op) (fieldY op))
  | _ => none

/-- Group E: the low byte selects the operation (R76, R77). -/
def decodeGroupE (op : Word) : Option Instr :=
  match (fieldNN op).toNat with
  | 0x9E => some (.skp (fieldX op))
  | 0xA1 => some (.sknp (fieldX op))
  | _ => none

/-- Group F: the low byte selects the operation (R76, R77). -/
def decodeGroupF (op : Word) : Option Instr :=
  match (fieldNN op).toNat with
  | 0x07 => some (.ldVxDt (fieldX op))
  | 0x0A => some (.ldVxK (fieldX op))
  | 0x15 => some (.ldDtVx (fieldX op))
  | 0x18 => some (.ldStVx (fieldX op))
  | 0x1E => some (.addI (fieldX op))
  | 0x29 => some (.ldF (fieldX op))
  | 0x33 => some (.ldB (fieldX op))
  | 0x55 => some (.storeRegs (fieldX op))
  | 0x65 => some (.loadRegs (fieldX op))
  | _ => none

/-- `decode(op)`, total on words: an instruction, or `none` for an illegal word (R75 to R77). Every fixed digit
of a pattern is tested (notes/assumptions/8.md). -/
def decode (op : Word) : Option Instr :=
  match (fieldG op).toNat with
  | 0x0 => decodeGroup0 op
  | 0x1 => some (.jp (fieldNNN op))
  | 0x2 => some (.call (fieldNNN op))
  | 0x3 => some (.seImm (fieldX op) (fieldNN op))
  | 0x4 => some (.sneImm (fieldX op) (fieldNN op))
  | 0x5 => if fieldN op = 0x0#4 then some (.seReg (fieldX op) (fieldY op)) else none
  | 0x6 => some (.ldImm (fieldX op) (fieldNN op))
  | 0x7 => some (.addImm (fieldX op) (fieldNN op))
  | 0x8 => decodeGroup8 op
  | 0x9 => if fieldN op = 0x0#4 then some (.sneReg (fieldX op) (fieldY op)) else none
  | 0xA => some (.ldI (fieldNNN op))
  | 0xB => some (.jpV0 (fieldX op) (fieldNNN op))
  | 0xC => some (.rnd (fieldX op) (fieldNN op))
  | 0xD => some (.drw (fieldX op) (fieldY op) (fieldN op))
  | 0xE => decodeGroupE op
  | 0xF => decodeGroupF op
  | _ => none

/-- Why a byte list is no instruction. -/
inductive DecodeError where
  /-- Fewer than the two bytes of an instruction (R70). -/
  | truncated
  /-- The word matches no row of the opcode map (R77). -/
  | unknownOpcode (op : Word)
deriving DecidableEq, Repr

/-- Decoding of bytes as the machine stores them, high byte first (R54, R70): the instruction and the bytes after
it, or the rejection by name. -/
def decodeBytes : List Byte → Except DecodeError (Instr × List Byte)
  | hi :: lo :: rest =>
    match decode (joinBytes hi lo) with
    | some i => .ok (i, rest)
    | none => .error (.unknownOpcode (joinBytes hi lo))
  | [_] => .error .truncated
  | [] => .error .truncated

/-- A word from its group digit and `NNN` (format `NNN` of R72). -/
def wordNNN (g : Nibble) (nnn : Addr12) : Word := BitVec.ofNat 16 (g.toNat * 4096 + nnn.toNat)

/-- A word from its group digit, `X` and its low byte (formats `XNN` and `X` of R72). -/
def wordXNN (g x : Nibble) (nn : Byte) : Word := BitVec.ofNat 16 (g.toNat * 4096 + x.toNat * 256 + nn.toNat)

/-- A word from its four digits (formats `XY` and `XYN` of R72). -/
def wordXYN (g x y n : Nibble) : Word :=
  BitVec.ofNat 16 (g.toNat * 4096 + x.toNat * 256 + y.toNat * 16 + n.toNat)

/-- The word of an instruction (R72, R76). -/
def encode : Instr → Word
  | .cls => 0x00E0#16
  | .ret => 0x00EE#16
  | .jp nnn => wordNNN 0x1#4 nnn
  | .call nnn => wordNNN 0x2#4 nnn
  | .seImm x nn => wordXNN 0x3#4 x nn
  | .sneImm x nn => wordXNN 0x4#4 x nn
  | .seReg x y => wordXYN 0x5#4 x y 0x0#4
  | .ldImm x nn => wordXNN 0x6#4 x nn
  | .addImm x nn => wordXNN 0x7#4 x nn
  | .ldReg x y => wordXYN 0x8#4 x y 0x0#4
  | .or x y => wordXYN 0x8#4 x y 0x1#4
  | .and x y => wordXYN 0x8#4 x y 0x2#4
  | .xor x y => wordXYN 0x8#4 x y 0x3#4
  | .addReg x y => wordXYN 0x8#4 x y 0x4#4
  | .sub x y => wordXYN 0x8#4 x y 0x5#4
  | .shr x y => wordXYN 0x8#4 x y 0x6#4
  | .subn x y => wordXYN 0x8#4 x y 0x7#4
  | .shl x y => wordXYN 0x8#4 x y 0xE#4
  | .sneReg x y => wordXYN 0x9#4 x y 0x0#4
  | .ldI nnn => wordNNN 0xA#4 nnn
  | .jpV0 _ nnn => wordNNN 0xB#4 nnn
  | .rnd x nn => wordXNN 0xC#4 x nn
  | .drw x y n => wordXYN 0xD#4 x y n
  | .skp x => wordXNN 0xE#4 x 0x9E#8
  | .sknp x => wordXNN 0xE#4 x 0xA1#8
  | .ldVxDt x => wordXNN 0xF#4 x 0x07#8
  | .ldVxK x => wordXNN 0xF#4 x 0x0A#8
  | .ldDtVx x => wordXNN 0xF#4 x 0x15#8
  | .ldStVx x => wordXNN 0xF#4 x 0x18#8
  | .addI x => wordXNN 0xF#4 x 0x1E#8
  | .ldF x => wordXNN 0xF#4 x 0x29#8
  | .ldB x => wordXNN 0xF#4 x 0x33#8
  | .storeRegs x => wordXNN 0xF#4 x 0x55#8
  | .loadRegs x => wordXNN 0xF#4 x 0x65#8

/-- The bytes of a word as the machine stores it, the high byte at the lower address (R54, R70). -/
def wordBytes (op : Word) : List Byte := [op.extractLsb' 8 8, op.extractLsb' 0 8]

/-- A row of the opcode map: its mask and its match (R75, R76). -/
structure OpcodeRow where
  mask : Word
  pattern : Word
deriving DecidableEq, Repr

/-- The row matches the word: `op AND mask = match` (R75). -/
def OpcodeRow.covers (r : OpcodeRow) (op : Word) : Bool := op &&& r.mask == r.pattern

/-- The row of R76 an instruction stands in. -/
def opcodeRow : Instr → OpcodeRow
  | .cls => ⟨0xFFFF#16, 0x00E0#16⟩
  | .ret => ⟨0xFFFF#16, 0x00EE#16⟩
  | .jp _ => ⟨0xF000#16, 0x1000#16⟩
  | .call _ => ⟨0xF000#16, 0x2000#16⟩
  | .seImm _ _ => ⟨0xF000#16, 0x3000#16⟩
  | .sneImm _ _ => ⟨0xF000#16, 0x4000#16⟩
  | .seReg _ _ => ⟨0xF00F#16, 0x5000#16⟩
  | .ldImm _ _ => ⟨0xF000#16, 0x6000#16⟩
  | .addImm _ _ => ⟨0xF000#16, 0x7000#16⟩
  | .ldReg _ _ => ⟨0xF00F#16, 0x8000#16⟩
  | .or _ _ => ⟨0xF00F#16, 0x8001#16⟩
  | .and _ _ => ⟨0xF00F#16, 0x8002#16⟩
  | .xor _ _ => ⟨0xF00F#16, 0x8003#16⟩
  | .addReg _ _ => ⟨0xF00F#16, 0x8004#16⟩
  | .sub _ _ => ⟨0xF00F#16, 0x8005#16⟩
  | .shr _ _ => ⟨0xF00F#16, 0x8006#16⟩
  | .subn _ _ => ⟨0xF00F#16, 0x8007#16⟩
  | .shl _ _ => ⟨0xF00F#16, 0x800E#16⟩
  | .sneReg _ _ => ⟨0xF00F#16, 0x9000#16⟩
  | .ldI _ => ⟨0xF000#16, 0xA000#16⟩
  | .jpV0 _ _ => ⟨0xF000#16, 0xB000#16⟩
  | .rnd _ _ => ⟨0xF000#16, 0xC000#16⟩
  | .drw _ _ _ => ⟨0xF000#16, 0xD000#16⟩
  | .skp _ => ⟨0xF0FF#16, 0xE09E#16⟩
  | .sknp _ => ⟨0xF0FF#16, 0xE0A1#16⟩
  | .ldVxDt _ => ⟨0xF0FF#16, 0xF007#16⟩
  | .ldVxK _ => ⟨0xF0FF#16, 0xF00A#16⟩
  | .ldDtVx _ => ⟨0xF0FF#16, 0xF015#16⟩
  | .ldStVx _ => ⟨0xF0FF#16, 0xF018#16⟩
  | .addI _ => ⟨0xF0FF#16, 0xF01E#16⟩
  | .ldF _ => ⟨0xF0FF#16, 0xF029#16⟩
  | .ldB _ => ⟨0xF0FF#16, 0xF033#16⟩
  | .storeRegs _ => ⟨0xF0FF#16, 0xF055#16⟩
  | .loadRegs _ => ⟨0xF0FF#16, 0xF065#16⟩

/-- One instruction of each row of R76, in the table's order. -/
def rowInstances : List Instr :=
  [.cls, .ret, .jp 0, .call 0, .seImm 0 0, .sneImm 0 0, .seReg 0 0, .ldImm 0 0, .addImm 0 0, .ldReg 0 0, .or 0 0,
    .and 0 0, .xor 0 0, .addReg 0 0, .sub 0 0, .shr 0 0, .subn 0 0, .shl 0 0, .sneReg 0 0, .ldI 0, .jpV0 0 0,
    .rnd 0 0, .drw 0 0 0, .skp 0, .sknp 0, .ldVxDt 0, .ldVxK 0, .ldDtVx 0, .ldStVx 0, .addI 0, .ldF 0, .ldB 0,
    .storeRegs 0, .loadRegs 0]

/-- The opcode map: the masks and matches of the 34 rows of R76, in the table's order. -/
def opcodeMap : List OpcodeRow := rowInstances.map opcodeRow

/-- The bytes in memory of an instruction whose bits, numbered as spec/opcode_table.json numbers them, are the low
`nbits` bits of `w` (16-bit words, one to an instruction, R70), each word high byte first (R54). -/
def tableBytes (nbits w : Nat) : List Byte := wordBytes (BitVec.ofNat 16 (w % 2 ^ nbits))

/-- What the decoder reads from the instruction whose table bits are `w`. -/
def decodeTableWord (nbits w : Nat) : Option Instr :=
  match decodeBytes (tableBytes nbits w) with
  | .ok (i, _) => some i
  | .error _ => none

end Sys2Proof
end

