-- ==== Sys2Proof/Config.lean ====
section
/-! DEFINITION. What is fixed for a machine: the parameters of spec/00_scope.md R4 and the types of those R5 and
R6 leave open, and the one free value of the spec, the injected random byte (spec/41_load_and_alu.md R121). The
values taken for the open parameters stand in Machine/Params.lean. -/

namespace Sys2Proof

/-- The quirks record `Q`, fixed at construction (R6). -/
structure Quirks where
  /-- 8XY1, 8XY2, 8XY3 reset `VF` first (R113 to R115). -/
  vfReset : Bool
  /-- FX55 and FX65 leave `I` unchanged (R134, R135). -/
  memory : Bool
  /-- At most one DXYN draws between two timer ticks (R144). -/
  displayWait : Bool
  /-- Sprites are clipped at the right and bottom edges instead of wrapping (R141). -/
  clipping : Bool
  /-- 8XY6 and 8XYE shift `Vx` in place instead of shifting `Vy` (R118, R120). -/
  shifting : Bool
  /-- BNNN adds `V_X` instead of `V0` (R107). -/
  jumping : Bool
deriving DecidableEq, Repr

/-- The configuration a running machine reads: the quirks, `STACK_DEPTH` (`none` is the spec's `unbounded`) and
`FONT_STRIDE` (R5, R6). -/
structure Config where
  q : Quirks
  stackDepth : Option Nat
  fontStride : Nat
deriving DecidableEq, Repr

/-- The arguments of `construct(rom, config)` (R200): the ROM image, the font table and fill byte of R5, and the
configuration the machine keeps. -/
structure Launch where
  rom : List Byte
  fontData : Vector Byte 80
  memFill : Byte
  cfg : Config
deriving DecidableEq, Repr

/-- `MEM_SIZE` (R4). -/
abbrev Config.memSize : Nat := 4096
/-- `FONT_BASE` (R4). -/
abbrev Config.fontBase : Nat := 0x050
/-- `FONT_LEN` (R4). -/
abbrev Config.fontLen : Nat := 80
/-- `PROG_BASE`, the entry point (R4, R51). -/
abbrev Config.progBase : Nat := 0x200
/-- `ROM_MAX` (R4). -/
abbrev Config.romMax : Nat := 3584
/-- `SCREEN_W` (R4). -/
abbrev Config.screenW : Nat := 64
/-- `SCREEN_H` (R4). -/
abbrev Config.screenH : Nat := 32

/-- FREE VALUE (R121, U12; notes/assumptions/1.md): the byte the host's random source answers to the `n`-th
`rnd()` call of a run. It has no body, so nothing can be proved of any byte. -/
opaque Config.rndByte : Nat → Byte

end Sys2Proof
end

