-- ==== Sys2Proof/Machine/Params.lean ====
section
/-! DEFINITION. The values taken for the parameters that spec/00_scope.md R5 and R6 leave open, each the spec's own
choice (spec/92_eei_decisions.md): the base quirks, the default configuration, the font bytes, the fill byte, and
what an address of memory holds that nothing has written. -/

namespace Sys2Proof.Machine

/-- `Q_BASE` (R6, D14; notes/assumptions/3.md). -/
def quirksBase : Quirks :=
  { vfReset := false, memory := false, displayWait := false, clipping := true, shifting := false, jumping := false }

/-- The default configuration: `Q_BASE`, unbounded call stack (D3), `FONT_STRIDE = 1` (D8). -/
def defaultConfig : Config := { q := quirksBase, stackDepth := none, fontStride := 1 }

/-- `FONT_DATA`, the 16 glyphs of 5 bytes (R52, D9; notes/assumptions/5.md). -/
def fontData : Vector Byte 80 :=
  #v[0xF0, 0x90, 0x90, 0x90, 0xF0,
     0x20, 0x60, 0x20, 0x20, 0x70,
     0xF0, 0x10, 0xF0, 0x80, 0xF0,
     0xF0, 0x10, 0xF0, 0x10, 0xF0,
     0x90, 0x90, 0xF0, 0x10, 0x10,
     0xF0, 0x80, 0xF0, 0x10, 0xF0,
     0xF0, 0x80, 0xF0, 0x90, 0xF0,
     0xF0, 0x10, 0x20, 0x40, 0x40,
     0xF0, 0x90, 0xF0, 0x90, 0xF0,
     0xF0, 0x90, 0xF0, 0x10, 0xF0,
     0xF0, 0x90, 0xF0, 0x90, 0x90,
     0xE0, 0x90, 0xE0, 0x90, 0xE0,
     0xF0, 0x80, 0x80, 0x80, 0xF0,
     0xE0, 0x90, 0x90, 0x90, 0xE0,
     0xF0, 0x80, 0xF0, 0x80, 0xF0,
     0xF0, 0x80, 0xF0, 0x80, 0x80]

/-- `MEM_FILL` (R5, D10; notes/assumptions/4.md). -/
def memFill : Byte := 0x00

/-- The byte at index `a` of a memory built from a font table, a fill byte and a ROM image (R51, R200): font at
0x050 to 0x09F, the ROM from 0x200 on, the fill byte elsewhere. -/
def launchByte (font : Vector Byte 80) (fill : Byte) (rom : List Byte) (a : Nat) : Byte :=
  if h : Config.fontBase ≤ a ∧ a < Config.fontBase + Config.fontLen then font[a - Config.fontBase]'(by simp only [Config.fontBase, Config.fontLen] at h ⊢; omega)
  else if Config.progBase ≤ a then rom.getD (a - Config.progBase) fill
  else fill

/-- What an index of memory reads as that the memory does not list: the reset contents with an empty ROM (R36, R51;
notes/assumptions/4.md). -/
def memDefault (a : Nat) : Byte := launchByte fontData memFill [] a

/-- The launch arguments of the machine `State.reset` is: the empty ROM under the default parameters (R5). -/
def defaultLaunch : Launch := { rom := [], fontData := fontData, memFill := memFill, cfg := defaultConfig }

end Sys2Proof.Machine
end

