-- ==== Sys2Proof/Machine/State.lean ====
section
/-! DEFINITION. The state of the machine (spec/10_state.md R20 to R33), its faults and refusals, and its reset
(R36). State is plain data; the operations over it stand in Machine/Ops.lean. -/

namespace Sys2Proof.Machine

/-- The 4096 bytes of `memory` (R29) as the cells that differ from `memDefault`, by strictly rising address. -/
abbrev Memory := List Host.Cell

/-- The framebuffer (R28): 32 rows from the top, each of 64 one-bit cells from the left. -/
abbrev Display := Vector (Vector Bool 64) 32

/-- The 16 one-bit key states, `true` for pressed (R27). -/
abbrev Keys := Vector Bool 16

/-- The state of the key-wait machine (R30). -/
inductive KeyWait where
  | idle
  | waitingForPress
  | waitingForRelease
deriving DecidableEq, Repr

/-- The fatal execution errors (R170). An error is TAKEN, not a dead end of the model: `State.raise` records it in
the latch `State.fault` (R31, R177), the step answers a next state, and every later `step` leaves that state as it
is (R179). No step answers `Host.Outcome.fault`. -/
inductive Fault where
  /-- Raised by the step cycle when the fetched word is no instruction (R171). Safe: it is the spec's own error. -/
  | unknownOpcode (op : Word)
  /-- Raised by 00EE on an empty call stack (R172). Safe: it is the spec's own error. -/
  | stackUnderflow
  /-- Raised by EX9E and EXA1 when `Vx` is 16 or more (R173). Safe: it is the spec's own error. -/
  | registerOutOfRange
  /-- Raised by 2NNN on a full call stack, under a finite `STACK_DEPTH` only (R174). Safe: it is the spec's own. -/
  | stackOverflow
deriving DecidableEq, Repr

/-- Why an instruction has no meaning. -/
inductive Refusal where
  /-- Raised by an arm of `exec` whose instruction has no meaning yet; no arm is left that raises it. Safe: it
  stops where the hardware goes on. -/
  | notModelled (mnemonic : String)
deriving DecidableEq, Repr

/-- The complete state of R33, the configuration, and the count of random bytes drawn. -/
structure State where
  /-- The general registers `V0` to `VF` (R20); `VF` is the flag register (R21). -/
  v : Vector Byte 16
  /-- The index register `I` (R22). -/
  index : Word
  /-- The program counter `pc` (R23). -/
  pc : Word
  /-- The call stack, its top first (R25). -/
  stack : List Word
  /-- The delay timer `dt` (R26). -/
  dt : Byte
  /-- The sound timer `st` (R26). -/
  st : Byte
  /-- The key latch `keys` (R27). -/
  keys : Keys
  /-- The framebuffer `fb` (R28). -/
  fb : Display
  /-- The memory (R29). -/
  memory : Memory
  /-- The key-wait machine's state `kw` (R30). -/
  kw : KeyWait
  /-- The copy of `keys` taken when the wait began, `keys_on_entry` (R30). -/
  keysOnEntry : Keys
  /-- The key whose press was seen, `captured_key` (R30). -/
  capturedKey : Nibble
  /-- The fault latch `fault` (R31). -/
  fault : Option Fault
  /-- The draw latch `draw_latch` (R32). -/
  drawLatch : Bool
  /-- The configuration given at construction (R5, R6): no operation writes it (notes/assumptions/2.md). -/
  cfg : Config
  /-- The MODEL'S OWN field: how many random bytes the run has drawn (R121; notes/assumptions/1.md). -/
  rndCount : Nat
deriving DecidableEq, Repr

/-- The outcome of one step of this machine. -/
abbrev Result := Host.Outcome State Fault Refusal

/-- All keys released (R36). -/
def keysReleased : Keys := Vector.replicate 16 false

/-- A clear screen (R36, R140). -/
def displayClear : Display := Vector.replicate 32 (Vector.replicate 64 false)

/-- The machine right after construction with an empty ROM and the default configuration (R36, R200). The values
R36 marks as not stated by the document are notes/assumptions/6.md. -/
def State.reset : State where
  v := Vector.replicate 16 0x00
  index := 0x0000
  pc := 0x0200
  stack := []
  dt := 0x00
  st := 0x00
  keys := keysReleased
  fb := displayClear
  memory := []
  kw := .idle
  keysOnEntry := keysReleased
  capturedKey := 0x0
  fault := none
  drawLatch := false
  cfg := defaultConfig
  rndCount := 0

end Sys2Proof.Machine
end

