-- ==== Sys2Proof/Machine/Ops.lean ====
section
/-! DEFINITION. The named operations over registers, memory, call stack, display, keys and latches
(spec/00_scope.md R8), the fetch and pre-increment of a step (spec/30_encoding.md R74), and raising a fatal error
(spec/60_exceptions.md R177). -/

namespace Sys2Proof.Machine

/-! Memory: the list of cells that differ from `memDefault`. -/

/-- The index a 16-bit address reaches: the port reduces it modulo 4096 (R53, D1; notes/assumptions/7.md). -/
def memIndex (a : Word) : Nat := a.toNat % Config.memSize

/-- The byte at an index. -/
def Memory.read (m : Memory) (k : Nat) : Byte :=
  match m with
  | [] => memDefault k
  | (a, b) :: rest => if a = k then b else Memory.read rest k

/-- A cell put at its place among cells of other addresses. -/
def Memory.insertCell (m : Memory) (k : Nat) (b : Byte) : Memory :=
  match m with
  | [] => [(k, b)]
  | (a, c) :: rest => if k < a then (k, b) :: (a, c) :: rest else (a, c) :: Memory.insertCell rest k b

/-- The memory without the cell of an index. -/
def Memory.eraseCell (m : Memory) (k : Nat) : Memory :=
  match m with
  | [] => []
  | (a, c) :: rest => if a = k then Memory.eraseCell rest k else (a, c) :: Memory.eraseCell rest k

/-- The memory with one byte written; a byte equal to what an unlisted index reads as is not listed. -/
def Memory.write (m : Memory) (k : Nat) (b : Byte) : Memory :=
  if b = memDefault k then Memory.eraseCell m k else Memory.insertCell (Memory.eraseCell m k) k b

/-- The canonical form from an address on: strictly rising, below 4096, no cell equal to its default. -/
def Memory.wfFrom (lo : Nat) : Memory → Bool
  | [] => true
  | (a, b) :: rest => decide (lo ≤ a) && decide (a < Config.memSize) && b != memDefault a && Memory.wfFrom (a + 1) rest

/-- The canonical form of a memory. -/
def Memory.wf (m : Memory) : Bool := Memory.wfFrom 0 m

/-! Registers (R8). -/

/-- The flag register `VF` (R21). -/
def flagReg : Nibble := 0xF#4

/-- `x[k]`. -/
def State.reg (s : State) (k : Nibble) : Byte := s.v[k.toNat]'k.isLt

/-- `x[k] <- b`. -/
def State.setReg (s : State) (k : Nibble) (b : Byte) : State := { s with v := s.v.set k.toNat b k.isLt }

/-- `I <- w`. -/
def State.setIndex (s : State) (w : Word) : State := { s with index := w }

/-- `pc <- target`. -/
def State.setPc (s : State) (target : Word) : State := { s with pc := target }

/-- The pre-increment of a step, modulo 65536 (R23, R74). -/
def State.preIncrement (s : State) : State := s.setPc (s.pc + 2)

/-- `skip` where the condition holds (R8). -/
def State.skipIf (s : State) (c : Bool) : State := s.setPc (if c then s.pc + 2 else s.pc)

/-- Undo the pre-increment, so that the instruction is fetched again (R144, R152). -/
def State.rewind (s : State) : State := s.setPc (s.pc - 2)

/-- `dt <- b`. -/
def State.setDt (s : State) (b : Byte) : State := { s with dt := b }

/-- `st <- b`. -/
def State.setSt (s : State) (b : Byte) : State := { s with st := b }

/-! The call stack (R25). -/

/-- The number of entries. -/
def State.depth (s : State) : Nat := s.stack.length

/-- The call stack replaced. -/
def State.setStack (s : State) (l : List Word) : State := { s with stack := l }

/-- `push(w)`. -/
def State.push (s : State) (w : Word) : State := s.setStack (w :: s.stack)

/-! The memory port (R53 to R55). -/

/-- `MemRead(a, 1)`. -/
def State.readMem (s : State) (a : Word) : Byte := Memory.read s.memory (memIndex a)

/-- `MemWrite(a, 1, b)`. -/
def State.writeMem (s : State) (a : Word) (b : Byte) : State :=
  { s with memory := Memory.write s.memory (memIndex a) b }

/-- `MemRead(a, 2)`: big-endian, the second address modulo 65536 (R54). -/
def State.readMem2 (s : State) (a : Word) : Word := joinBytes (s.readMem a) (s.readMem (a + 1))

/-- The word a step fetches (R74). -/
def State.fetch (s : State) : Word := s.readMem2 s.pc

/-- Bytes written at ascending addresses from `a` on. -/
def State.writeBytes (s : State) (a : Word) : List Byte → State
  | [] => s
  | b :: rest => State.writeBytes (s.writeMem a b) (a + 1) rest

/-! The framebuffer (R28, R145). -/

/-- `fb[cx, cy]`. -/
def Display.cell (fb : Display) (cx : Fin 64) (cy : Fin 32) : Bool := (fb[cy])[cx]

/-- `fb[cx, cy] <- p`. -/
def Display.setCell (fb : Display) (cx : Fin 64) (cy : Fin 32) (p : Bool) : Display :=
  fb.set cy ((fb[cy]).set cx p)

/-- The framebuffer replaced. -/
def State.setFb (s : State) (fb : Display) : State := { s with fb := fb }

/-- `draw_latch <- b` (R32). -/
def State.setDrawLatch (s : State) (b : Bool) : State := { s with drawLatch := b }

/-! Keys and the key-wait machine (R27, R30). -/

/-- `keys[k]`, of a key array. -/
def Keys.pressed (ks : Keys) (k : Nibble) : Bool := ks[k.toNat]'k.isLt

/-- The key latch replaced. -/
def State.setKeys (s : State) (ks : Keys) : State := { s with keys := ks }

/-- `kw <- w`. -/
def State.setKw (s : State) (w : KeyWait) : State := { s with kw := w }

/-- `keys_on_entry <- ks`. -/
def State.setKeysOnEntry (s : State) (ks : Keys) : State := { s with keysOnEntry := ks }

/-- `captured_key <- k`. -/
def State.setCapturedKey (s : State) (k : Nibble) : State := { s with capturedKey := k }

/-! The random source (R121). -/

/-- The byte the next `rnd()` answers: a free value. -/
def State.rndByte (s : State) : Byte := Config.rndByte s.rndCount

/-- One `rnd()` byte consumed. -/
def State.consumeRnd (s : State) : State := { s with rndCount := s.rndCount + 1 }

/-! Fatal errors (R170, R177 to R179). There is no return from one: only construction clears the latch. -/

/-- `raise e`: the error goes into the latch and nothing else changes (R177; notes/assumptions/9.md). -/
def State.raise (s : State) (e : Fault) : State := { s with fault := some e }

/-- The numeric code of the latch (R170, D12). -/
def faultCode : Option Fault → Nat
  | none => 0
  | some (.unknownOpcode _) => 1
  | some .stackUnderflow => 2
  | some .registerOutOfRange => 3
  | some .stackOverflow => 4

end Sys2Proof.Machine
end

