-- ==== Sys2Proof/Machine/Operands.lean ====
section
/-! DEFINITION. Every operand form of the spec: immediates (spec/30_encoding.md R73), the effective address
`I + offset` (spec/20_memory.md R57), the source of a shift and the offset register of BNNN, which a quirk selects
(spec/41_load_and_alu.md R118, R120; spec/40_control_transfer.md R107), and a key index in a register
(spec/44_keypad.md R150). -/

namespace Sys2Proof.Machine

/-- `NNN` zero-extended to 16 bits (R73). -/
def zextAddr (nnn : Addr12) : Word := nnn.setWidth 16

/-- A register's value zero-extended to 16 bits (R8). -/
def zextByte (b : Byte) : Word := b.setWidth 16

/-- The effective address `(I + off) mod 65536` (R57, R136). -/
def State.ea (s : State) (off : Nat) : Word := s.index + BitVec.ofNat 16 off

/-- The value 8XY6 and 8XYE shift: `Vy`, or `Vx` with `Q.Shifting` (R118, R120). -/
def State.shiftSource (s : State) (x y : Nibble) : Byte := if s.cfg.q.shifting then s.reg x else s.reg y

/-- The register BNNN adds: `V0`, or `V_X` with `Q.Jumping` (R107). -/
def State.jumpReg (s : State) (x : Nibble) : Nibble := if s.cfg.q.jumping then x else 0x0#4

/-- The key a register's value names; `none` for 16 to 255, which is not masked (R150). -/
def keyIndex (b : Byte) : Option Nibble := if b.toNat < 16 then some (b.setWidth 4) else none

end Sys2Proof.Machine
end

