-- ==== Sys2Proof/Machine/Flags.lean ====
section
/-! DEFINITION. Every value the spec writes to `VF` as a flag (spec/10_state.md R21) and the order of the flag and
result writes (spec/41_load_and_alu.md R122, R123). -/

namespace Sys2Proof.Machine

/-- A condition as a flag value, 1 or 0. -/
def flagByte (c : Bool) : Byte := if c then 1 else 0

/-- 8XY4: the exact sum exceeds 255 (R116). -/
def carryFlag (a b : Byte) : Byte := flagByte (decide (a.toNat + b.toNat > 255))

/-- 8XY5, 8XY7: minuend `≥` subtrahend, no borrow (R117, R119). -/
def noBorrowFlag (minuend subtrahend : Byte) : Byte := flagByte (decide (subtrahend.toNat ≤ minuend.toNat))

/-- 8XY6: bit 0, the bit shifted out at the right (R118). -/
def shiftRightFlag (b : Byte) : Byte := flagByte (b.getLsbD 0)

/-- 8XYE: bit 7, the bit shifted out at the left (R120). -/
def shiftLeftFlag (b : Byte) : Byte := flagByte (b.getLsbD 7)

/-- FX1E: the exact sum exceeds 0xFFF (R131, D5). -/
def indexOverflowFlag (i : Word) (b : Byte) : Byte := flagByte (decide (i.toNat + b.toNat > 0xFFF))

/-- `VF <- b`. -/
def State.setVF (s : State) (b : Byte) : State := s.setReg flagReg b

/-- The flag write, then the result write: with `x = F` the result stands (R123, D4; notes/assumptions/10.md). -/
def State.writeFlagged (s : State) (x : Nibble) (result flag : Byte) : State := (s.setVF flag).setReg x result

/-- The result write of 8XY1, 8XY2, 8XY3, after `VF <- 0` with `Q.VfReset` (R113 to R115, D15). -/
def State.writeLogic (s : State) (x : Nibble) (result : Byte) : State :=
  if s.cfg.q.vfReset then s.writeFlagged x result 0 else s.setReg x result

end Sys2Proof.Machine
end

