-- ==== Sys2Proof/Machine/Alu.lean ====
section
/-! DEFINITION. Register load, arithmetic, logic, shift, random (spec/41_load_and_alu.md R110 to R123). Operands
are read from the state before any write (R123). -/

namespace Sys2Proof.Machine

/-- 6XNN `LD Vx, nn` (R110). -/
def execLdImm (x : Nibble) (nn : Byte) (s : State) : Result := .next (s.setReg x nn)

/-- 7XNN `ADD Vx, nn` (R111): wraps, and writes no flag. -/
def execAddImm (x : Nibble) (nn : Byte) (s : State) : Result := .next (s.setReg x (s.reg x + nn))

/-- 8XY0 `LD Vx, Vy` (R112). -/
def execLdReg (x y : Nibble) (s : State) : Result := .next (s.setReg x (s.reg y))

/-- 8XY1 `OR Vx, Vy` (R113). -/
def execOr (x y : Nibble) (s : State) : Result := .next (s.writeLogic x (s.reg x ||| s.reg y))

/-- 8XY2 `AND Vx, Vy` (R114). -/
def execAnd (x y : Nibble) (s : State) : Result := .next (s.writeLogic x (s.reg x &&& s.reg y))

/-- 8XY3 `XOR Vx, Vy` (R115). -/
def execXor (x y : Nibble) (s : State) : Result := .next (s.writeLogic x (s.reg x ^^^ s.reg y))

/-- 8XY4 `ADD Vx, Vy` (R116). -/
def execAddReg (x y : Nibble) (s : State) : Result :=
  .next (s.writeFlagged x (s.reg x + s.reg y) (carryFlag (s.reg x) (s.reg y)))

/-- 8XY5 `SUB Vx, Vy` (R117). -/
def execSub (x y : Nibble) (s : State) : Result :=
  .next (s.writeFlagged x (s.reg x - s.reg y) (noBorrowFlag (s.reg x) (s.reg y)))

/-- 8XY6 `SHR Vx, Vy` (R118). -/
def execShr (x y : Nibble) (s : State) : Result :=
  .next (s.writeFlagged x (s.shiftSource x y >>> 1) (shiftRightFlag (s.shiftSource x y)))

/-- 8XY7 `SUBN Vx, Vy` (R119). -/
def execSubn (x y : Nibble) (s : State) : Result :=
  .next (s.writeFlagged x (s.reg y - s.reg x) (noBorrowFlag (s.reg y) (s.reg x)))

/-- 8XYE `SHL Vx, Vy` (R120). -/
def execShl (x y : Nibble) (s : State) : Result :=
  .next (s.writeFlagged x (s.shiftSource x y <<< 1) (shiftLeftFlag (s.shiftSource x y)))

/-- CXNN `RND Vx, nn` (R121): one free byte is drawn, whatever `nn` is. -/
def execRnd (x : Nibble) (nn : Byte) (s : State) : Result := .next (s.consumeRnd.setReg x (s.rndByte &&& nn))

end Sys2Proof.Machine
end

