-- ==== Sys2Proof/Machine/Control.lean ====
section
/-! DEFINITION. Control transfer (spec/40_control_transfer.md R100 to R108). In every meaning of the model `s.pc` is
already the address of the instruction plus 2 (spec/30_encoding.md R74). -/

namespace Sys2Proof.Machine

/-- 00EE `RET` (R100). -/
def execRet (s : State) : Result :=
  match s.stack with
  | [] => .next (s.raise .stackUnderflow)
  | top :: rest => .next ((s.setStack rest).setPc top)

/-- 1NNN `JP nnn` (R101). -/
def execJp (nnn : Addr12) (s : State) : Result := .next (s.setPc (zextAddr nnn))

/-- 2NNN `CALL nnn` (R102, R174). -/
def execCall (nnn : Addr12) (s : State) : Result :=
  if s.cfg.stackDepth = some s.depth then .next (s.raise .stackOverflow)
  else .next ((s.push s.pc).setPc (zextAddr nnn))

/-- 3XNN `SE Vx, nn` (R103). -/
def execSeImm (x : Nibble) (nn : Byte) (s : State) : Result := .next (s.skipIf (s.reg x == nn))

/-- 4XNN `SNE Vx, nn` (R104). -/
def execSneImm (x : Nibble) (nn : Byte) (s : State) : Result := .next (s.skipIf (s.reg x != nn))

/-- 5XY0 `SE Vx, Vy` (R105). -/
def execSeReg (x y : Nibble) (s : State) : Result := .next (s.skipIf (s.reg x == s.reg y))

/-- 9XY0 `SNE Vx, Vy` (R106). -/
def execSneReg (x y : Nibble) (s : State) : Result := .next (s.skipIf (s.reg x != s.reg y))

/-- BNNN `JP V0, nnn` (R107): the sum is not reduced to 12 bits. -/
def execJpV0 (x : Nibble) (nnn : Addr12) (s : State) : Result :=
  .next (s.setPc (zextAddr nnn + zextByte (s.reg (s.jumpReg x))))

end Sys2Proof.Machine
end

