-- ==== Sys2Proof/Machine/Display.lean ====
section
/-! DEFINITION. The display (spec/43_display.md R140 to R145): clearing it, the sprite rasterizer with its XOR
collision detector, and the host's read-only view. -/

namespace Sys2Proof.Machine

/-- The screen during a draw, and whether a cell has gone from 1 to 0 (R141). -/
abbrev Canvas := Display × Bool

/-- One sprite pixel XORed into its cell; it collides where the cell was on and the pixel is 1 (R141). -/
def plotPixel (cx : Fin 64) (cy : Fin 32) (p : Bool) (d : Canvas) : Canvas :=
  (Display.setCell d.1 cx cy (Display.cell d.1 cx cy ^^ p), d.2 || (Display.cell d.1 cx cy && p))

/-- The columns `bs` of one sprite row; clipping leaves the loop at the right edge (R141). -/
def drawColumns (clip : Bool) (sx : Nat) (cy : Fin 32) (row : Byte) : List Nat → Canvas → Canvas
  | [], d => d
  | b :: bs, d =>
    if clip && decide (sx + b ≥ Config.screenW) then d
    else drawColumns clip sx cy row bs (plotPixel (Fin.ofNat 64 (sx + b)) cy (row.getLsbD (7 - b)) d)

/-- The rows `rs` of a sprite; row `r` is read at `I + r`, and clipping leaves the loop at the bottom edge (R141). -/
def State.drawRows (s : State) (sx sy : Nat) : List Nat → Canvas → Canvas
  | [], d => d
  | r :: rs, d =>
    if s.cfg.q.clipping && decide (sy + r ≥ Config.screenH) then d
    else s.drawRows sx sy rs
      (drawColumns s.cfg.q.clipping sx (Fin.ofNat 32 (sy + r)) (s.readMem (s.ea r)) (List.range 8) d)

/-- The `n`-row sprite at `I` drawn at `(vx mod 64, vy mod 32)` (R141, R142). -/
def State.drawSprite (s : State) (vx vy : Byte) (n : Nibble) : Canvas :=
  s.drawRows (vx.toNat % Config.screenW) (vy.toNat % Config.screenH) (List.range n.toNat) (s.fb, false)

/-- A DXYN is held back: `Q.DisplayWait` is on and a draw has happened since the last tick (R144, D17). -/
def State.drawHeld (s : State) : Bool := s.cfg.q.displayWait && s.drawLatch

/-- 00E0 `CLS` (R140). -/
def execCls (s : State) : Result := .next (s.setFb displayClear)

/-- DXYN `DRW Vx, Vy, n` (R141, R144): the coordinates are read before `VF` is written. -/
def execDrw (x y n : Nibble) (s : State) : Result :=
  if s.drawHeld then .next s.rewind
  else
    let d := s.drawSprite (s.reg x) (s.reg y) n
    .next (((s.setFb d.1).setVF (flagByte d.2)).setDrawLatch (s.cfg.q.displayWait || s.drawLatch))

/-- The host's view: the 2048 cells in row-major order (R145). -/
def State.framebufferView (s : State) : List Bool := s.fb.toList.flatMap Vector.toList

end Sys2Proof.Machine
end

