-- ==== Sys2Proof/Machine/IndexMem.lean ====
section
/-! DEFINITION. The index register and memory transfer (spec/42_index_and_memory.md R130 to R136). -/

namespace Sys2Proof.Machine

/-- The first `n` registers stored at ascending addresses from `base` on (R134). -/
def State.storeRegs (s : State) (base : Word) : Nat → State
  | 0 => s
  | n + 1 => (s.storeRegs base n).writeMem (base + BitVec.ofNat 16 n) (s.reg (BitVec.ofNat 4 n))

/-- The first `n` registers loaded from ascending addresses from `base` on (R135). -/
def State.loadRegs (s : State) (base : Word) : Nat → State
  | 0 => s
  | n + 1 => (s.loadRegs base n).setReg (BitVec.ofNat 4 n) (s.readMem (base + BitVec.ofNat 16 n))

/-- The update of `I` after a transfer of `V0` to `V_X`: none with `Q.Memory` (R134, R135). -/
def State.advanceIndex (s : State) (x : Nibble) : State :=
  s.setIndex (if s.cfg.q.memory then s.index else s.ea (x.toNat + 1))

/-- ANNN `LD I, nnn` (R130). -/
def execLdI (nnn : Addr12) (s : State) : Result := .next (s.setIndex (zextAddr nnn))

/-- FX1E `ADD I, Vx` (R131): the flag lands in `VF` also when `x = F`, since the result goes to `I`. -/
def execAddI (x : Nibble) (s : State) : Result :=
  .next ((s.setVF (indexOverflowFlag s.index (s.reg x))).setIndex (s.index + zextByte (s.reg x)))

/-- FX29 `LD F, Vx` (R132): no mask and no range check on `Vx`. -/
def execLdF (x : Nibble) (s : State) : Result :=
  .next (s.setIndex (BitVec.ofNat 16 (Config.fontBase + s.cfg.fontStride * (s.reg x).toNat)))

/-- FX33 `LD B, Vx` (R133): hundreds, tens, units. -/
def execLdB (x : Nibble) (s : State) : Result :=
  .next (((s.writeMem (s.ea 0) (s.reg x / 100)).writeMem (s.ea 1) (s.reg x / 10 % 10)).writeMem (s.ea 2) (s.reg x % 10))

/-- FX55 `LD [I], Vx` (R134). -/
def execStoreRegs (x : Nibble) (s : State) : Result := .next ((s.storeRegs s.index (x.toNat + 1)).advanceIndex x)

/-- FX65 `LD Vx, [I]` (R135). -/
def execLoadRegs (x : Nibble) (s : State) : Result := .next ((s.loadRegs s.index (x.toNat + 1)).advanceIndex x)

end Sys2Proof.Machine
end

