-- ==== Sys2Proof/Machine/Keypad.lean ====
section
/-! DEFINITION. The keypad (spec/44_keypad.md R150 to R155): the key skips and the key-wait machine of FX0A. The
host event `set_key` stands in Machine/HostEvents.lean. -/

namespace Sys2Proof.Machine

/-- A key skip: the range check, which faults, stands before the key test (R150, R151, R173). -/
def State.skipOnKey (s : State) (x : Nibble) (pressed : Bool) : State :=
  match keyIndex (s.reg x) with
  | none => s.raise .registerOutOfRange
  | some k => s.skipIf (Keys.pressed s.keys k == pressed)

/-- EX9E `SKP Vx` (R150). -/
def execSkp (x : Nibble) (s : State) : Result := .next (s.skipOnKey x true)

/-- EXA1 `SKNP Vx` (R151). -/
def execSknp (x : Nibble) (s : State) : Result := .next (s.skipOnKey x false)

/-- `fresh(k)`: released when the wait began and pressed now (R153). -/
def State.fresh (s : State) (k : Nibble) : Bool := !Keys.pressed s.keysOnEntry k && Keys.pressed s.keys k

/-- The keys in the order the scan takes them, ascending (R152, D13; notes/assumptions/11.md). -/
def scanOrder : List Nibble :=
  [0x0#4, 0x1#4, 0x2#4, 0x3#4, 0x4#4, 0x5#4, 0x6#4, 0x7#4, 0x8#4, 0x9#4, 0xA#4, 0xB#4, 0xC#4, 0xD#4, 0xE#4, 0xF#4]

/-- The first fresh key of the scan (R152). -/
def State.firstFresh (s : State) : Option Nibble := scanOrder.find? s.fresh

/-- FX0A `LD Vx, K` (R152, R153). -/
def execLdVxK (x : Nibble) (s : State) : Result :=
  match s.kw with
  | .idle => .next ((s.setKeysOnEntry s.keys).setKw .waitingForPress).rewind
  | .waitingForPress =>
    match s.firstFresh with
    | some k => .next ((s.setCapturedKey k).setKw .waitingForRelease).rewind
    | none => .next s.rewind
  | .waitingForRelease =>
    if Keys.pressed s.keys s.capturedKey then .next s.rewind
    else .next ((s.setReg x (s.capturedKey.setWidth 8)).setKw .idle)

end Sys2Proof.Machine
end

