-- ==== Sys2Proof/Machine/Timers.lean ====
section
/-! DEFINITION. The timer instructions (spec/45_timers.md R160 to R162). The countdown unit `timers_tick` is a host
event and stands in Machine/HostEvents.lean. -/

namespace Sys2Proof.Machine

/-- FX07 `LD Vx, DT` (R160). -/
def execLdVxDt (x : Nibble) (s : State) : Result := .next (s.setReg x s.dt)

/-- FX15 `LD DT, Vx` (R161). -/
def execLdDtVx (x : Nibble) (s : State) : Result := .next (s.setDt (s.reg x))

/-- FX18 `LD ST, Vx` (R162). -/
def execLdStVx (x : Nibble) (s : State) : Result := .next (s.setSt (s.reg x))

end Sys2Proof.Machine
end

