-- ==== Sys2Proof/Machine/Cycle.lean ====
section
/-! DEFINITION. The step cycle (spec/30_encoding.md R74): fetch, pre-increment, decode, execute. Machine/Step.lean
only calls it. -/

namespace Sys2Proof.Machine

/-- Dispatch on a fetched word: the instruction's meaning, or `UnknownOpcode(op)` (R74, R171). -/
def State.dispatch (s : State) (op : Word) : Result :=
  match decode op with
  | some i => exec i s
  | none => .next (s.raise (.unknownOpcode op))

/-- `step()`: on a machine whose fault latch is set it changes nothing (R74, R179; notes/assumptions/9.md). -/
def stepCycle (s : State) : Result :=
  match s.fault with
  | some _ => .next s
  | none => s.preIncrement.dispatch s.fetch

/-- The state with an instruction's bytes stored where the next step fetches, and no fault latched, so that the
next step does fetch. -/
def State.placeAtPc (s : State) (bytes : List Byte) : State := { s.writeBytes s.pc bytes with fault := none }

end Sys2Proof.Machine
end

