-- ==== Sys2Proof/Machine/Step.lean ====
section
/-! DEFINITION. One step of the machine, `step()` of spec/30_encoding.md R74, and the placing of an instruction
where the next step fetches it. -/

namespace Sys2Proof.Machine

/-- One cycle: Machine/Cycle.lean says what it does. -/
def step (s : State) : Host.Outcome State Fault Refusal := stepCycle s

/-- `s` with the instruction whose table bits are `w` stored, high byte first, at `pc` and `pc + 1` (R54, R74); the
fault latch, under which a step fetches nothing (R179), is cleared. The call stands for the loading of a program
from outside the machine (R200; notes/assumptions/12.md). -/
def State.withFetchWord (s : State) (nbits w : Nat) : State := s.placeAtPc (tableBytes nbits w)

end Sys2Proof.Machine
end

