-- ==== Sys2Proof/Machine/HostEvents.lean ====
section
/-! DEFINITION. The events of the machine other than a step (spec/60_exceptions.md R181): construction
(spec/70_reset_and_hazards.md R200), `timers_tick` (spec/45_timers.md R163), `set_key` (spec/44_keypad.md R154), and
runs over any schedule of events (R182). The framebuffer view is `State.framebufferView` (Machine/Display.lean); the
`rnd()` answer is taken inside CXNN (Machine/Alu.lean). -/

namespace Sys2Proof.Machine

/-- Why no machine is constructed. -/
inductive ConstructError where
  /-- The ROM is longer than 3584 bytes: rejected before any state exists (R189). -/
  | romTooLarge (length : Nat)
deriving DecidableEq, Repr

/-- The memory of a launch: at each index the byte of R51 and R200, listed where it differs from `memDefault`. -/
@[irreducible] def launchMemory (l : Launch) : Memory :=
  (List.range Config.memSize).filterMap fun a =>
    let b := launchByte l.fontData l.memFill l.rom a
    if b = memDefault a then none else some (a, b)

/-- `construct(rom, config)`: the machine's only reset (R200, R36, R189). -/
def construct (l : Launch) : Except ConstructError State :=
  if l.rom.length > Config.romMax then .error (.romTooLarge l.rom.length)
  else .ok { State.reset with memory := launchMemory l, cfg := l.cfg }

/-- One decrement of a timer, not below 0 (R163). -/
def countDown (b : Byte) : Byte := if b = 0 then 0 else b - 1

/-- `timers_tick()` (R163): acts in every state, a faulted one too. -/
def State.timersTick (s : State) : State := ((s.setDt (countDown s.dt)).setSt (countDown s.st)).setDrawLatch false

/-- `set_key(index, pressed)` (R154); the index is 4 bits, so no other index can be named (D20). -/
def State.setKey (s : State) (k : Nibble) (pressed : Bool) : State :=
  s.setKeys (s.keys.set k.toNat pressed k.isLt)

/-- The events that act on a constructed machine (R181). -/
inductive Event where
  /-- `step()`, executed by the engine. -/
  | step
  /-- `timers_tick()`, issued by the host. -/
  | timersTick
  /-- `set_key(index, pressed)`, issued by the host. -/
  | setKey (k : Nibble) (pressed : Bool)
deriving DecidableEq, Repr

/-- One event, atomic (R181, R182). -/
def applyEvent (e : Event) (s : State) : Result :=
  match e with
  | .step => step s
  | .timersTick => .next s.timersTick
  | .setKey k pressed => .next (s.setKey k pressed)

/-- A schedule of events, one after the other: the host may choose any (R182, D19). -/
def runEvents : List Event → State → Result
  | [], s => .next s
  | e :: rest, s =>
    match applyEvent e s with
    | .next t => runEvents rest t
    | .fault r => .fault r
    | .refused r => .refused r

end Sys2Proof.Machine
end

