-- ==== Sys2Proof/Safety.lean ====
section
/-! DEFINITION. The terms claims are made in: a machine that runs, the machine's invariants, the end of a run
(spec/10_state.md R34; spec/60_exceptions.md R179; spec/70_reset_and_hazards.md R207). -/

namespace Sys2Proof.Machine

/-- No fatal error is latched: the machine runs (R179). -/
abbrev State.Running (s : State) : Prop := s.fault = none

/-- The memory is in its canonical form. -/
def State.MemoryCanonical (s : State) : Prop := Memory.wf s.memory = true

/-- A finite call stack holds at most `STACK_DEPTH` entries (R25, R174). -/
def State.StackWithinDepth (s : State) : Prop := ∀ d, s.cfg.stackDepth = some d → s.stack.length ≤ d

/-- While a key wait is in progress, `pc` is the address of an FX0A (R34). -/
def State.WaitsAtFX0A (s : State) : Prop :=
  s.kw ≠ .idle → s.Running → ∃ x, decode s.fetch = some (.ldVxK x)

/-- The captured key was released when the wait began: a key held at entry is never captured (R152). -/
def State.CapturedWasReleased (s : State) : Prop :=
  s.kw = .waitingForRelease → Keys.pressed s.keysOnEntry s.capturedKey = false

/-- An idle loop: `pc` holds the address of a jump to itself (R207). -/
def State.IdleLoop (s : State) : Prop := ∃ nnn, decode s.fetch = some (.jp nnn) ∧ s.pc = zextAddr nnn

/-- A sprite pixel that is 1 falls on the cell `(cx, cy)`: some row `r` and column `b` of the `n`-row sprite at `I`,
drawn from `(vx mod 64, vy mod 32)`, lands there, is not clipped, and has its bit set; the leftmost pixel is bit 7
(R141, R142). -/
def State.SpritePixel (s : State) (vx vy : Byte) (n : Nibble) (cx : Fin 64) (cy : Fin 32) : Prop :=
  ∃ r < n.toNat, ∃ b < 8,
    (vx.toNat % 64 + b) % 64 = cx.val ∧ (vy.toNat % 32 + r) % 32 = cy.val ∧
    (s.cfg.q.clipping = true → vx.toNat % 64 + b < 64 ∧ vy.toNat % 32 + r < 32) ∧
    (s.readMem (s.index + BitVec.ofNat 16 r)).getLsbD (7 - b) = true

/-- The general registers an instruction may write (R20, R21), under given quirks. -/
def writesReg (q : Quirks) : Instr → Nibble → Bool
  | .cls, _ | .ret, _ | .jp _, _ | .call _, _ | .seImm _ _, _ | .sneImm _ _, _ | .seReg _ _, _ | .sneReg _ _, _ => false
  | .ldI _, _ | .jpV0 _ _, _ | .skp _, _ | .sknp _, _ | .ldDtVx _, _ | .ldStVx _, _ | .ldF _, _ => false
  | .ldB _, _ | .storeRegs _, _ => false
  | .ldImm x _, k | .addImm x _, k | .ldReg x _, k | .rnd x _, k | .ldVxDt x, k | .ldVxK x, k => k == x
  | .or x _, k | .and x _, k | .xor x _, k => k == x || (q.vfReset && k == 0xF#4)
  | .addReg x _, k | .sub x _, k | .shr x _, k | .subn x _, k | .shl x _, k => k == x || k == 0xF#4
  | .drw _ _ _, k | .addI _, k => k == 0xF#4
  | .loadRegs x, k => decide (k.toNat ≤ x.toNat)

end Sys2Proof.Machine
end

