-- ==== Sys2Proof/Certificates/Slice0/Obligations.lean ====
section
/-! DEFINITION. The statements for the provers, made from the numbered rules of spec/. In a statement about `exec`,
`s.pc` is the address of the instruction plus 2 already, as in every instruction rule (spec/30_encoding.md R74). -/

open Sys2Proof Sys2Proof.Machine

/-! Encoding and decoding (spec/30_encoding.md). -/

/-- R71, R72, R76: no bit of an encoding is dropped. All 34 instructions, every operand. -/
def Obligations.DecodeOfEncode : Prop :=
  ∀ i : Instr, i.wellFormed = true → decode (encode i) = some i

/-- R75, R76: at most one word decodes to a given instruction, its encoding, and that instruction is well formed. The
model's choice: this rests on the strict decoding of D7 (notes/assumptions/8.md), under which every fixed digit is
tested; a decoder that ran 5XY1 as 5XY0 would decode two words to one instruction. -/
def Obligations.EncodeOfDecode : Prop :=
  ∀ (w : Word) (i : Instr), decode w = some i → i.wellFormed = true ∧ encode i = w

/-- R75, R76 (that every fixed digit is tested is D7's; notes/assumptions/8.md): a word decodes to an instruction only
where `op AND mask = match` for that instruction's row, to none exactly where no row matches, and the 34 pairs are
pairwise disjoint. -/
def Obligations.DecodeFollowsTheOpcodeMap : Prop :=
  (∀ (w : Word) (i : Instr), decode w = some i → w &&& (opcodeRow i).mask = (opcodeRow i).pattern) ∧
  (∀ w : Word, decode w = none ↔ ∀ r ∈ opcodeMap, w &&& r.mask ≠ r.pattern) ∧
  opcodeMap.length = 34 ∧
  ∀ (w : Word) (m n : Fin opcodeMap.length),
    w &&& opcodeMap[m].mask = opcodeMap[m].pattern → w &&& opcodeMap[n].mask = opcodeMap[n].pattern → m = n

/-- R77: the illegal words, digit by digit: group 0 but 00E0 and 00EE, 5XY1 to 5XYF, 8XY8 to 8XYD and 8XYF, 9XY1 to
9XYF, and the low bytes of groups E and F that no row has. The model's choice: that the low digits of groups 5, 8 and
9 and the low bytes of groups 0, E and F are all tested is the strict decoding of D7 (notes/assumptions/8.md). -/
def Obligations.IllegalWordsByGroup : Prop :=
  ∀ g x y n : Nibble,
    decode (wordXYN g x y n) = none ↔
      (g = 0x0#4 ∧ ¬ (x = 0x0#4 ∧ y = 0xE#4 ∧ (n = 0x0#4 ∨ n = 0xE#4))) ∨
      (g = 0x5#4 ∧ n ≠ 0x0#4) ∨
      (g = 0x8#4 ∧ 8 ≤ n.toNat ∧ n ≠ 0xE#4) ∨
      (g = 0x9#4 ∧ n ≠ 0x0#4) ∨
      (g = 0xE#4 ∧ (y, n) ∉ [(0x9#4, 0xE#4), (0xA#4, 0x1#4)]) ∨
      (g = 0xF#4 ∧ (y, n) ∉ [(0x0#4, 0x7#4), (0x0#4, 0xA#4), (0x1#4, 0x5#4), (0x1#4, 0x8#4), (0x1#4, 0xE#4),
        (0x2#4, 0x9#4), (0x3#4, 0x3#4), (0x5#4, 0x5#4), (0x6#4, 0x5#4)])

/-- R76: words of each group, written out from the map, decode to the instruction they stand for. (That 0x0000 is
illegal is R77 under the strict decoding of D7; notes/assumptions/8.md.) -/
def Obligations.SampleWordsDecode : Prop :=
  decode 0x00E0#16 = some .cls ∧ decode 0x00EE#16 = some .ret ∧ decode 0x1ABC#16 = some (.jp 0xABC#12) ∧
  decode 0x3A42#16 = some (.seImm 0xA#4 0x42#8) ∧ decode 0x8127#16 = some (.subn 0x1#4 0x2#4) ∧
  decode 0xB234#16 = some (.jpV0 0x2#4 0x234#12) ∧ decode 0xD015#16 = some (.drw 0x0#4 0x1#4 0x5#4) ∧
  decode 0xE2A1#16 = some (.sknp 0x2#4) ∧ decode 0xF365#16 = some (.loadRegs 0x3#4) ∧ decode 0x0000#16 = none

/-! The step cycle and the fault latch (spec/30_encoding.md R74, spec/60_exceptions.md R170 to R179). -/

/-- R74, R54: a running machine whose two bytes at `pc`, high byte first, decode to `i` runs `i` with `pc` already
advanced by 2. (That an unset latch is what makes a machine run is D11's, the wrap of `pc` D2's;
notes/assumptions/9.md, 7.md.) -/
def Obligations.StepRunsTheDecodedInstruction : Prop :=
  ∀ (s : State) (i : Instr), s.Running →
    decode (joinBytes (s.readMem s.pc) (s.readMem (s.pc + 1))) = some i →
    step s = exec i { s with pc := s.pc + 2 }

/-- R171, R177 (the latch is D11's; notes/assumptions/9.md): an illegal word is latched with `pc` advanced by 2 and
nothing else changed. -/
def Obligations.UnknownOpcodeIsLatched : Prop :=
  ∀ s : State, s.Running → decode s.fetch = none →
    step s = .next { s with pc := s.pc + 2, fault := some (.unknownOpcode s.fetch) }

/-- R179 (D11; notes/assumptions/9.md): with an error latched a step changes nothing, and no event clears or replaces
the latched error. -/
def Obligations.HaltedMachineStaysHalted : Prop :=
  ∀ (s : State) (f : Fault), s.fault = some f →
    step s = .next s ∧ ∀ (e : Event) (t : State), applyEvent e s = .next t → t.fault = some f

/-- R74, R177, R179: every step answers a next state; the model has no dead end and no refusal. The model's choice:
that an error is a next state with the latch set, and a step of a halted machine a next state too, is D11's
(notes/assumptions/9.md). -/
def Obligations.EveryStepAnswersNext : Prop :=
  ∀ s : State, ∃ t, step s = .next t

/-- R177 (the latch is D11's; notes/assumptions/9.md): a fatal error is precise: the state before the step, `pc`
advanced by 2, and the latch set. -/
def Obligations.FatalErrorsArePrecise : Prop :=
  ∀ s t : State, s.Running → step s = .next t → ¬ t.Running →
    t = { s with pc := s.pc + 2, fault := t.fault }

/-- R170 to R174, R176: the complete list of errors, with the one condition of each. The model's choices: that an
error is a latch that a step sets is D11's (notes/assumptions/9.md); `StackOverflow`, which the document does not
have, and its test for equality with `STACK_DEPTH` are D3's (notes/assumptions/17.md); that every word matching no
row is an unknown opcode is the strict decoding of D7 (notes/assumptions/8.md). -/
def Obligations.FatalErrorCauses : Prop :=
  ∀ (s t : State) (f : Fault), s.Running → step s = .next t →
    (t.fault = some f ↔
      (f = .unknownOpcode s.fetch ∧ decode s.fetch = none) ∨
      (f = .stackUnderflow ∧ decode s.fetch = some .ret ∧ s.stack = []) ∨
      (f = .registerOutOfRange ∧ ∃ x, (decode s.fetch = some (.skp x) ∨ decode s.fetch = some (.sknp x)) ∧
        16 ≤ (s.reg x).toNat) ∨
      (f = .stackOverflow ∧ ∃ nnn, decode s.fetch = some (.call nnn) ∧ s.cfg.stackDepth = some s.stack.length))

/-! Memory (spec/20_memory.md R53, R56, R62) and the invariants. -/

/-- R53, R56 (the reduction modulo 4096 is D1; notes/assumptions/7.md): a byte written is read back at every address
with the same low 12 bits, and a write changes exactly the addressed byte. -/
def Obligations.ReadAfterWrite : Prop :=
  ∀ (s : State) (a p : Word) (b : Byte),
    (s.writeMem a b).readMem p = if p.toNat % 4096 = a.toNat % 4096 then b else s.readMem p

/-- A fact about the model's own representation, of which no rule speaks: every event keeps the memory's canonical
form, rising addresses below 4096 and no byte equal to its reset byte. The form is notes/assumptions/16.md, the reset
bytes notes/assumptions/4.md and 5.md (D10, D9). -/
def Obligations.MemoryStaysCanonical : Prop :=
  ∀ (e : Event) (s t : State), s.MemoryCanonical → applyEvent e s = .next t → t.MemoryCanonical

/-- R34, R152: while a key wait is in progress `pc` is the address of an FX0A, and a captured key was released when
the wait began; every event keeps each of the two, and no event changes the memory, or moves `pc` while the wait goes
on. (R34 derives the first from R152; the latch that stops the machine is D11's, notes/assumptions/9.md.) -/
def Obligations.KeyWaitInvariantsAreKept : Prop :=
  (∀ (e : Event) (s t : State), s.WaitsAtFX0A → applyEvent e s = .next t → t.WaitsAtFX0A) ∧
  (∀ (e : Event) (s t : State), s.CapturedWasReleased → applyEvent e s = .next t → t.CapturedWasReleased) ∧
  (∀ (e : Event) (s t : State), s.WaitsAtFX0A → s.kw ≠ .idle → applyEvent e s = .next t →
    t.memory = s.memory ∧ (t.pc = s.pc ∨ t.kw = .idle))

/-- R25, R174 (the bound is D3's, its test for equality notes/assumptions/17.md): a call stack within a finite
`STACK_DEPTH` stays within it. -/
def Obligations.StackStaysWithinDepth : Prop :=
  ∀ (e : Event) (s t : State), s.StackWithinDepth → applyEvent e s = .next t → t.StackWithinDepth

/-- R36 (`kw` is Idle): the reset state meets the four invariants and runs. The model's choices: the canonical form
of the memory is notes/assumptions/16.md; the empty stack and the unset latch are D10's and D11's
(notes/assumptions/6.md). -/
def Obligations.ResetMeetsTheInvariants : Prop :=
  State.reset.MemoryCanonical ∧ State.reset.WaitsAtFX0A ∧ State.reset.CapturedWasReleased ∧
  State.reset.StackWithinDepth ∧ State.reset.Running

/-- R181, R182, R200: every machine constructed from any ROM and configuration meets the four invariants after every
schedule of events. The model's choices: the canonical form of the memory is notes/assumptions/16.md; the empty stack
at construction is D10's (notes/assumptions/6.md), its bound D3's (notes/assumptions/17.md); the schedule of events
is D19's (notes/assumptions/15.md). -/
def Obligations.InvariantsHoldOnEveryRun : Prop :=
  ∀ (l : Launch) (es : List Event) (s t : State), construct l = .ok s → runEvents es s = .next t →
    t.MemoryCanonical ∧ t.WaitsAtFX0A ∧ t.CapturedWasReleased ∧ t.StackWithinDepth

/-! Who writes what (spec/10_state.md R20 to R35). -/

/-- R6, R35: the configuration is never changed, and a step never changes the key latch. (That the configuration is
held in the state is notes/assumptions/2.md.) -/
def Obligations.ConfigurationAndKeysAreNotWritten : Prop :=
  (∀ (e : Event) (s t : State), applyEvent e s = .next t → t.cfg = s.cfg) ∧
  (∀ s t : State, step s = .next t → t.keys = s.keys)

/-- R57: only FX33 and FX55 change memory; for every other instruction every byte reads as before. -/
def Obligations.OnlyStoresChangeMemory : Prop :=
  ∀ (i : Instr) (s t : State), (∀ x, i ≠ .ldB x) → (∀ x, i ≠ .storeRegs x) → exec i s = .next t →
    ∀ a, t.readMem a = s.readMem a

/-- R20, R21: an instruction changes no general register but those the spec names for it. -/
def Obligations.OnlyNamedRegistersChange : Prop :=
  ∀ (i : Instr) (s t : State) (k : Nibble), exec i s = .next t → writesReg s.cfg.q i k = false → t.reg k = s.reg k

/-- R22, R25, R26, R27, R28, R30: each special register is changed only by the instructions the spec names for it.
The model's choices: the draw latch, which R32 has from D17 (notes/assumptions/14.md); the count of random bytes, the
model's own counter, by which it says that CXNN alone consumes a byte, exactly one (R121; notes/assumptions/1.md);
the configuration held in the state (notes/assumptions/2.md). -/
def Obligations.OnlyNamedInstructionsChangeSpecialState : Prop :=
  ∀ (i : Instr) (s t : State), exec i s = .next t →
    (t.index = s.index ∨ (∃ nnn, i = .ldI nnn) ∨ (∃ x, i = .addI x ∨ i = .ldF x ∨ i = .storeRegs x ∨ i = .loadRegs x)) ∧
    (t.stack = s.stack ∨ i = .ret ∨ ∃ nnn, i = .call nnn) ∧
    (t.dt = s.dt ∨ ∃ x, i = .ldDtVx x) ∧ (t.st = s.st ∨ ∃ x, i = .ldStVx x) ∧
    ((t.fb = s.fb ∧ t.drawLatch = s.drawLatch) ∨ i = .cls ∨ ∃ x y n, i = .drw x y n) ∧
    ((t.kw = s.kw ∧ t.keysOnEntry = s.keysOnEntry ∧ t.capturedKey = s.capturedKey) ∨ ∃ x, i = .ldVxK x) ∧
    (t.rndCount = s.rndCount ∨ (t.rndCount = s.rndCount + 1 ∧ ∃ x nn, i = .rnd x nn)) ∧
    t.keys = s.keys ∧ t.cfg = s.cfg

/-- R24: how a step leaves `pc`, `s.pc` being the address the instruction was fetched from. The model's choices: the
held DXYN (D17) and the register of BNNN under `Q.Jumping` (D18) are notes/assumptions/14.md; `pc` after an
overflowing 2NNN is D3's (notes/assumptions/17.md), and after any error, as a 00EE on an empty stack, D11's
(notes/assumptions/9.md); the sums wrap by D2 (notes/assumptions/7.md). -/
def Obligations.PcAfterAStep : Prop :=
  ∀ (s t : State) (i : Instr), s.Running → decode s.fetch = some i → step s = .next t →
    match i with
    | .ret => t.pc = s.stack.headD (s.pc + 2)
    | .jp nnn => t.pc = zextAddr nnn
    | .call nnn => t.pc = if t.Running then zextAddr nnn else s.pc + 2
    | .jpV0 x nnn => t.pc = zextAddr nnn + zextByte (s.reg (if s.cfg.q.jumping then x else 0x0#4))
    | .seImm x nn => t.pc = if s.reg x = nn then s.pc + 4 else s.pc + 2
    | .sneImm x nn => t.pc = if s.reg x ≠ nn then s.pc + 4 else s.pc + 2
    | .seReg x y => t.pc = if s.reg x = s.reg y then s.pc + 4 else s.pc + 2
    | .sneReg x y => t.pc = if s.reg x ≠ s.reg y then s.pc + 4 else s.pc + 2
    | .skp x => t.pc = if (s.reg x).toNat < 16 ∧ Keys.pressed s.keys ((s.reg x).setWidth 4) = true then s.pc + 4 else s.pc + 2
    | .sknp x => t.pc = if (s.reg x).toNat < 16 ∧ Keys.pressed s.keys ((s.reg x).setWidth 4) = false then s.pc + 4 else s.pc + 2
    | .ldVxK _ => t.pc = if s.kw = .waitingForRelease ∧ t.kw = .idle then s.pc + 2 else s.pc
    | .drw _ _ _ => t.pc = if s.cfg.q.displayWait = true ∧ s.drawLatch = true then s.pc else s.pc + 2
    | _ => t.pc = s.pc + 2

/-- R25, R102, R100: the depth of the call stack grows by 1 in a 2NNN that does not fault, shrinks by 1 in a 00EE
that does not, and is otherwise unchanged. The model's choices: the overflow is D3's (notes/assumptions/17.md), the
latch by which a fault is told is D11's (notes/assumptions/9.md). -/
def Obligations.DepthAfterAnInstruction : Prop :=
  ∀ (i : Instr) (s t : State), s.Running → exec i s = .next t →
    match i with
    | .call _ => t.stack.length = if t.Running then s.stack.length + 1 else s.stack.length
    | .ret => t.stack.length = s.stack.length - 1 ∧ (t.Running ↔ s.stack.length ≠ 0)
    | _ => t.stack = s.stack

/-! Construction (spec/70_reset_and_hazards.md R200, spec/10_state.md R36). -/

/-- R36, R200: what the document states of the state after construction: `pc`, the place of the font, no wait; and
construction from the empty ROM under the default parameters is that state. (The font's byte values are D9's;
notes/assumptions/5.md.) -/
def Obligations.ResetValuesOfTheDocument : Prop :=
  construct defaultLaunch = .ok State.reset ∧ State.reset.pc = 0x0200#16 ∧ State.reset.kw = .idle ∧
  ∀ j : Fin 80, State.reset.readMem (BitVec.ofNat 16 (0x050 + j.val)) = fontData[j]

/-- R36's values of decisions D10, D11 and D17, the model's choices (notes/assumptions/4.md, 6.md): zero, empty,
released, clear. -/
def Obligations.ResetValuesOfTheDecisions : Prop :=
  (∀ k, State.reset.reg k = 0x00#8) ∧ State.reset.index = 0x0000#16 ∧ State.reset.stack = [] ∧
  State.reset.dt = 0x00#8 ∧ State.reset.st = 0x00#8 ∧ (∀ k, Keys.pressed State.reset.keys k = false) ∧
  (∀ cx cy, Display.cell State.reset.fb cx cy = false) ∧ State.reset.fault = none ∧ State.reset.drawLatch = false ∧
  ∀ a : Word, ¬ (0x050 ≤ a.toNat % 4096 ∧ a.toNat % 4096 < 0x0A0) → State.reset.readMem a = 0x00#8

/-- R200: construction copies the font and the ROM, sets `pc` to 0x200 and takes the configuration. (That the rest of
memory holds the fill byte and the other state its reset value is D10's; notes/assumptions/4.md, 6.md.) -/
def Obligations.ConstructionLoadsTheRom : Prop :=
  ∀ (l : Launch) (s : State), construct l = .ok s →
    s.pc = 0x0200#16 ∧ s.cfg = l.cfg ∧
    (∀ j : Fin 80, s.readMem (BitVec.ofNat 16 (0x050 + j.val)) = l.fontData[j]) ∧
    (∀ j (h : j < l.rom.length), s.readMem (BitVec.ofNat 16 (0x200 + j)) = l.rom[j]) ∧
    (∀ a : Word, a.toNat < 4096 → ¬ (0x050 ≤ a.toNat ∧ a.toNat < 0x0A0) →
      ¬ (0x200 ≤ a.toNat ∧ a.toNat < 0x200 + l.rom.length) → s.readMem a = l.memFill) ∧
    s = { State.reset with memory := s.memory, cfg := l.cfg }

/-- R189: a ROM of more than 3584 bytes is rejected and no state exists; any other yields a machine. -/
def Obligations.OversizedRomIsRejected : Prop :=
  ∀ l : Launch,
    (3584 < l.rom.length → construct l = .error (.romTooLarge l.rom.length)) ∧
    (l.rom.length ≤ 3584 → ∃ s, construct l = .ok s)

/-! Host events (spec/45_timers.md R163, spec/44_keypad.md R154). -/

/-- R163 (that it also acts on a halted machine is D11's, the draw latch D17's; notes/assumptions/9.md, 14.md): each
timer counts down by 1 and stops at 0, and nothing else changes. -/
def Obligations.TimersTickCountsDown : Prop :=
  ∀ s : State, ∃ t, applyEvent .timersTick s = .next t ∧
    t.dt.toNat = s.dt.toNat - 1 ∧ t.st.toNat = s.st.toNat - 1 ∧ t.drawLatch = false ∧
    t = { s with dt := t.dt, st := t.st, drawLatch := false }

/-- R163: `n` ticks with no step between leave `max(dt - n, 0)`. -/
def Obligations.ManyTicksSaturate : Prop :=
  ∀ (n : Nat) (s : State), ∃ t, runEvents (List.replicate n .timersTick) s = .next t ∧
    t.dt.toNat = s.dt.toNat - n ∧ t.st.toNat = s.st.toNat - n

/-- R154 (that an index has 4 bits is D20's; notes/assumptions/15.md): `set_key` writes one key and nothing else. -/
def Obligations.SetKeyWritesOneKey : Prop :=
  ∀ (s : State) (k : Nibble) (p : Bool), ∃ t, applyEvent (.setKey k p) s = .next t ∧
    (∀ j, Keys.pressed t.keys j = if j = k then p else Keys.pressed s.keys j) ∧ t = { s with keys := t.keys }

/-! Control transfer (spec/40_control_transfer.md). -/

/-- R100 (the latch is D11's; notes/assumptions/9.md): 00EE pops the top into `pc`; on an empty stack it latches
`StackUnderflow` and leaves `pc` where it is. -/
def Obligations.ReturnPopsThePc : Prop :=
  (∀ (s : State) (top : Word) (rest : List Word), s.stack = top :: rest →
    exec .ret s = .next { s with pc := top, stack := rest }) ∧
  (∀ s : State, s.stack = [] → exec .ret s = .next { s with fault := some .stackUnderflow })

/-- R101: 1NNN; a jump to its own address (the idle loop of R207) leaves the machine state unchanged. -/
def Obligations.JumpSetsThePc : Prop :=
  (∀ nnn : Addr12, decode (wordNNN 0x1#4 nnn) = some (.jp nnn)) ∧
  (∀ (nnn : Addr12) (s : State), ∃ t, exec (.jp nnn) s = .next t ∧ t.pc.toNat = nnn.toNat ∧ t = { s with pc := t.pc }) ∧
  (∀ s : State, s.Running → s.IdleLoop → step s = .next s)

/-- R102, R174: 2NNN pushes the address after the call and jumps; a full finite stack latches `StackOverflow` with
nothing pushed. (The bound and its test for equality are D3's, notes/assumptions/17.md; the latch is D11's,
notes/assumptions/9.md.) -/
def Obligations.CallPushesThePc : Prop :=
  (∀ (nnn : Addr12) (s : State), s.cfg.stackDepth ≠ some s.stack.length → ∃ t, exec (.call nnn) s = .next t ∧
    t.stack = s.pc :: s.stack ∧ t.pc.toNat = nnn.toNat ∧ t = { s with pc := t.pc, stack := t.stack }) ∧
  (∀ (nnn : Addr12) (s : State), s.cfg.stackDepth = some s.stack.length →
    exec (.call nnn) s = .next { s with fault := some .stackOverflow })

/-- R103, R104: the skips on an immediate. -/
def Obligations.ImmediateSkips : Prop :=
  ∀ (x : Nibble) (nn : Byte),
    decode (wordXNN 0x3#4 x nn) = some (.seImm x nn) ∧ decode (wordXNN 0x4#4 x nn) = some (.sneImm x nn) ∧
    ∀ s : State,
      exec (.seImm x nn) s = .next { s with pc := if s.reg x = nn then s.pc + 2 else s.pc } ∧
      exec (.sneImm x nn) s = .next { s with pc := if s.reg x ≠ nn then s.pc + 2 else s.pc }

/-- R105, R106: the skips on two registers, and the words their low digit makes illegal. The model's choice: that
5XYn and 9XYn with n other than 0 are illegal is the strict decoding of D7 (notes/assumptions/8.md). -/
def Obligations.RegisterSkips : Prop :=
  ∀ x y : Nibble,
    (∀ n : Nibble, decode (wordXYN 0x5#4 x y n) = if n = 0x0#4 then some (.seReg x y) else none) ∧
    (∀ n : Nibble, decode (wordXYN 0x9#4 x y n) = if n = 0x0#4 then some (.sneReg x y) else none) ∧
    ∀ s : State,
      exec (.seReg x y) s = .next { s with pc := if s.reg x = s.reg y then s.pc + 2 else s.pc } ∧
      exec (.sneReg x y) s = .next { s with pc := if s.reg x ≠ s.reg y then s.pc + 2 else s.pc }

/-- R107 (the quirk's register is D18's; notes/assumptions/14.md): BNNN adds `V0`, or `V_X` with `Q.Jumping`, and
does not reduce the sum to 12 bits. -/
def Obligations.OffsetJump : Prop :=
  ∀ (x : Nibble) (nnn : Addr12) (s : State), ∃ t, exec (.jpV0 x nnn) s = .next t ∧
    t.pc.toNat = nnn.toNat + (s.reg (if s.cfg.q.jumping then x else 0x0#4)).toNat ∧ t = { s with pc := t.pc }

/-! Load, arithmetic, logic, shift, random (spec/41_load_and_alu.md). -/

/-- R110, R111, R112: the loads and the add of an immediate write `Vx` and no flag. -/
def Obligations.LoadsAndAddImmediate : Prop :=
  (∀ (x : Nibble) (nn : Byte), decode (wordXNN 0x6#4 x nn) = some (.ldImm x nn) ∧
    decode (wordXNN 0x7#4 x nn) = some (.addImm x nn)) ∧
  (∀ x y : Nibble, decode (wordXYN 0x8#4 x y 0x0#4) = some (.ldReg x y)) ∧
  (∀ (x : Nibble) (nn : Byte) (s : State), ∃ t, exec (.ldImm x nn) s = .next t ∧
    (∀ k, t.reg k = if k = x then nn else s.reg k) ∧ t = { s with v := t.v }) ∧
  (∀ (x : Nibble) (nn : Byte) (s : State), ∃ t, exec (.addImm x nn) s = .next t ∧
    (t.reg x).toNat = ((s.reg x).toNat + nn.toNat) % 256 ∧ (∀ k, k ≠ x → t.reg k = s.reg k) ∧ t = { s with v := t.v }) ∧
  (∀ (x y : Nibble) (s : State), ∃ t, exec (.ldReg x y) s = .next t ∧
    (∀ k, t.reg k = if k = x then s.reg y else s.reg k) ∧ t = { s with v := t.v })

/-- R113, R114, R115 (the order under `Q.VfReset` is D15's; notes/assumptions/10.md): or, and, exclusive or; `VF` is
reset only with `Q.VfReset`, and the result stands where `x` is F. -/
def Obligations.LogicInstructions : Prop :=
  ∀ (x y : Nibble) (s : State),
    (∃ t, exec (.or x y) s = .next t ∧ t = { s with v := t.v } ∧
      ∀ k, t.reg k = if k = x then s.reg x ||| s.reg y else if k = 0xF#4 ∧ s.cfg.q.vfReset then 0 else s.reg k) ∧
    (∃ t, exec (.and x y) s = .next t ∧ t = { s with v := t.v } ∧
      ∀ k, t.reg k = if k = x then s.reg x &&& s.reg y else if k = 0xF#4 ∧ s.cfg.q.vfReset then 0 else s.reg k) ∧
    (∃ t, exec (.xor x y) s = .next t ∧ t = { s with v := t.v } ∧
      ∀ k, t.reg k = if k = x then s.reg x ^^^ s.reg y else if k = 0xF#4 ∧ s.cfg.q.vfReset then 0 else s.reg k)

/-- R116, R122 (the case `x = F`, where the sum stands in `VF`, is D4's; notes/assumptions/10.md). -/
def Obligations.AddWithCarry : Prop :=
  ∀ (x y : Nibble) (s : State), ∃ t, exec (.addReg x y) s = .next t ∧
    (t.reg x).toNat = ((s.reg x).toNat + (s.reg y).toNat) % 256 ∧
    (x ≠ 0xF#4 → t.reg 0xF#4 = if 255 < (s.reg x).toNat + (s.reg y).toNat then 1 else 0) ∧
    (∀ k, k ≠ x → k ≠ 0xF#4 → t.reg k = s.reg k) ∧ t = { s with v := t.v }

/-- R117, R119, R122 (the case `x = F` is D4's; notes/assumptions/10.md): the two subtractions. -/
def Obligations.SubtractWithNoBorrow : Prop :=
  ∀ (x y : Nibble) (s : State),
    (∃ t, exec (.sub x y) s = .next t ∧
      (t.reg x).toNat = ((s.reg x).toNat + 256 - (s.reg y).toNat) % 256 ∧
      (x ≠ 0xF#4 → t.reg 0xF#4 = if (s.reg y).toNat ≤ (s.reg x).toNat then 1 else 0) ∧
      (∀ k, k ≠ x → k ≠ 0xF#4 → t.reg k = s.reg k) ∧ t = { s with v := t.v }) ∧
    (∃ t, exec (.subn x y) s = .next t ∧
      (t.reg x).toNat = ((s.reg y).toNat + 256 - (s.reg x).toNat) % 256 ∧
      (x ≠ 0xF#4 → t.reg 0xF#4 = if (s.reg x).toNat ≤ (s.reg y).toNat then 1 else 0) ∧
      (∀ k, k ≠ x → k ≠ 0xF#4 → t.reg k = s.reg k) ∧ t = { s with v := t.v })

/-- R118, R120 (which bit is shifted out is D6's, the case `x = F` D4's; notes/assumptions/10.md): the shifts of
`Vy`, or of `Vx` with `Q.Shifting`. -/
def Obligations.ShiftsByOne : Prop :=
  ∀ (x y : Nibble) (s : State),
    (∃ t, exec (.shr x y) s = .next t ∧
      (t.reg x).toNat = (s.reg (if s.cfg.q.shifting then x else y)).toNat / 2 ∧
      (x ≠ 0xF#4 → (t.reg 0xF#4).toNat = (s.reg (if s.cfg.q.shifting then x else y)).toNat % 2) ∧
      (∀ k, k ≠ x → k ≠ 0xF#4 → t.reg k = s.reg k) ∧ t = { s with v := t.v }) ∧
    (∃ t, exec (.shl x y) s = .next t ∧
      (t.reg x).toNat = (s.reg (if s.cfg.q.shifting then x else y)).toNat * 2 % 256 ∧
      (x ≠ 0xF#4 → (t.reg 0xF#4).toNat = (s.reg (if s.cfg.q.shifting then x else y)).toNat / 128) ∧
      (∀ k, k ≠ x → k ≠ 0xF#4 → t.reg k = s.reg k) ∧ t = { s with v := t.v })

/-- R121: CXNN writes the next byte of the random source, masked with `NN`, and consumes exactly one, also where `NN`
is 0. (The byte is the free value of notes/assumptions/1.md: the statement holds for every source.) -/
def Obligations.RandomByteIsMasked : Prop :=
  ∀ (x : Nibble) (nn : Byte) (s : State), ∃ t : State, exec (.rnd x nn) s = .next t ∧
    t.reg x = Config.rndByte s.rndCount &&& nn ∧ (∀ k, k ≠ x → t.reg k = s.reg k) ∧
    t = { s with v := t.v, rndCount := s.rndCount + 1 }

/-! Index register and memory transfer (spec/42_index_and_memory.md). -/

/-- R130: ANNN. -/
def Obligations.LoadIndex : Prop :=
  (∀ nnn : Addr12, decode (wordNNN 0xA#4 nnn) = some (.ldI nnn)) ∧
  ∀ (nnn : Addr12) (s : State), ∃ t, exec (.ldI nnn) s = .next t ∧ t.index.toNat = nnn.toNat ∧
    t = { s with index := t.index }

/-- R131 (the exact comparison is D5's, the wrap D2's; notes/assumptions/10.md, 7.md): FX1E; the flag stays in `VF`
also when `x = F`. -/
def Obligations.AddToIndex : Prop :=
  ∀ (x : Nibble) (s : State), ∃ t, exec (.addI x) s = .next t ∧
    t.index.toNat = (s.index.toNat + (s.reg x).toNat) % 65536 ∧
    (∀ k, t.reg k = if k = 0xF#4 then (if 0xFFF < s.index.toNat + (s.reg x).toNat then 1 else 0) else s.reg k) ∧
    t = { s with v := t.v, index := t.index }

/-- R132 (the factor is the parameter `FONT_STRIDE`, D8; notes/assumptions/3.md): FX29, with no mask on `Vx`. -/
def Obligations.FontIndex : Prop :=
  ∀ (x : Nibble) (s : State), ∃ t, exec (.ldF x) s = .next t ∧
    t.index.toNat = (0x050 + s.cfg.fontStride * (s.reg x).toNat) % 65536 ∧ t = { s with index := t.index }

/-- R133 (the wrap at the port is D1's, that of the address D2's; notes/assumptions/7.md): FX33 stores hundreds, tens
and units at `I`, `I + 1`, `I + 2`, and leaves `I`, every register and every other byte as they were. -/
def Obligations.StoreDecimalDigits : Prop :=
  ∀ (x : Nibble) (s : State), ∃ t, exec (.ldB x) s = .next t ∧
    (t.readMem s.index).toNat = (s.reg x).toNat / 100 ∧
    (t.readMem (s.index + 1)).toNat = (s.reg x).toNat / 10 % 10 ∧
    (t.readMem (s.index + 2)).toNat = (s.reg x).toNat % 10 ∧
    (∀ a : Word, (∀ j < 3, memIndex a ≠ memIndex (s.ea j)) → t.readMem a = s.readMem a) ∧
    t = { s with memory := t.memory }

/-- R134 (the wrap at the port is D1's, that of `I` D2's; notes/assumptions/7.md): FX55 stores `V0` to `V_X` at
ascending addresses from `I`, advances `I` by `X + 1` unless `Q.Memory`, and leaves every register and every other
byte as they were. -/
def Obligations.StoreRegisters : Prop :=
  ∀ (x : Nibble) (s : State), ∃ t, exec (.storeRegs x) s = .next t ∧
    (∀ k : Nibble, k.toNat ≤ x.toNat → t.readMem (s.ea k.toNat) = s.reg k) ∧
    (∀ a : Word, (∀ j ≤ x.toNat, memIndex a ≠ memIndex (s.ea j)) → t.readMem a = s.readMem a) ∧
    t.index.toNat = (if s.cfg.q.memory then s.index.toNat else (s.index.toNat + x.toNat + 1) % 65536) ∧
    t = { s with memory := t.memory, index := t.index }

/-- R135 (the wrap at the port is D1's, that of `I` D2's; notes/assumptions/7.md): FX65 loads `V0` to `V_X` from
ascending addresses from `I`, advances `I` by `X + 1` unless `Q.Memory`, and leaves the registers above `V_X` and the
memory as they were. -/
def Obligations.LoadRegisters : Prop :=
  ∀ (x : Nibble) (s : State), ∃ t, exec (.loadRegs x) s = .next t ∧
    (∀ k : Nibble, t.reg k = if k.toNat ≤ x.toNat then s.readMem (s.ea k.toNat) else s.reg k) ∧
    t.index.toNat = (if s.cfg.q.memory then s.index.toNat else (s.index.toNat + x.toNat + 1) % 65536) ∧
    (∀ a, t.readMem a = s.readMem a) ∧ t = { s with v := t.v, index := t.index }

/-- R134, R135 (the wrap at the port is D1's; notes/assumptions/7.md): the round trip: what FX55 stored, FX65 from
the same `I` loads back, into any registers. -/
def Obligations.StoreThenLoadRestores : Prop :=
  ∀ (x : Nibble) (s t u : State), exec (.storeRegs x) s = .next t → u.index = s.index → u.memory = t.memory →
    ∃ w, exec (.loadRegs x) u = .next w ∧ ∀ k : Nibble, k.toNat ≤ x.toNat → w.reg k = s.reg k

/-! Display (spec/43_display.md). -/

/-- R140: 00E0 clears all 2048 cells and changes nothing else. -/
def Obligations.ClearScreen : Prop :=
  decode 0x00E0#16 = some .cls ∧
  ∀ s : State, ∃ t, exec .cls s = .next t ∧ (∀ cx cy, Display.cell t.fb cx cy = false) ∧ t = { s with fb := t.fb }

/-- R141: the rasterizer loop is the exclusive or of the sprite's pixels into the screen, and `VF` is 1 exactly where
some cell that was on meets a pixel that is 1. A draw that is held is `HeldDrawRewinds`. The model's choices: `X` or
`Y` = F (D4, notes/assumptions/10.md); wrapping without `Q.Clipping`, the draw latch, `N = 0` (D16, D17, D24,
notes/assumptions/14.md); sprite reads past 0xFFF (D1, notes/assumptions/7.md). -/
def Obligations.DrawXorsTheSprite : Prop :=
  ∀ (x y n : Nibble) (s : State), ¬ (s.cfg.q.displayWait = true ∧ s.drawLatch = true) →
    ∃ t, exec (.drw x y n) s = .next t ∧
      (∀ cx cy, Display.cell t.fb cx cy = true ↔
        ¬ (Display.cell s.fb cx cy = true ↔ s.SpritePixel (s.reg x) (s.reg y) n cx cy)) ∧
      ((∃ cx cy, Display.cell s.fb cx cy = true ∧ s.SpritePixel (s.reg x) (s.reg y) n cx cy) → t.reg 0xF#4 = 1) ∧
      ((¬ ∃ cx cy, Display.cell s.fb cx cy = true ∧ s.SpritePixel (s.reg x) (s.reg y) n cx cy) → t.reg 0xF#4 = 0) ∧
      (∀ k, k ≠ 0xF#4 → t.reg k = s.reg k) ∧ (∀ a, t.readMem a = s.readMem a) ∧
      t = { s with v := t.v, fb := t.fb, drawLatch := s.cfg.q.displayWait || s.drawLatch }

/-- R144 (the mechanism is D17's; notes/assumptions/14.md): a DXYN held back changes nothing but `pc`, which goes
back to the instruction. -/
def Obligations.HeldDrawRewinds : Prop :=
  ∀ (x y n : Nibble) (s : State), s.cfg.q.displayWait = true → s.drawLatch = true →
    exec (.drw x y n) s = .next { s with pc := s.pc - 2 }

/-- R143 (its second sentence read under the premise of its first; notes/assumptions/13.md), for `X` and `Y` other
than F, whose coordinates the first draw does not change, and without `Q.DisplayWait`, under which the second draw is
held; single draws of those forms are `DrawXorsTheSprite` and `HeldDrawRewinds`. The same sprite drawn twice at the
same place restores the screen, and the second draw collides exactly if some pixel of the sprite fell on a cell that
was off before the first; on a region all off the first draw does not collide, and the second does exactly if the
sprite has an unclipped 1 bit. The model's choice: pixels that wrap without `Q.Clipping` (D16,
notes/assumptions/14.md). -/
def Obligations.DrawTwiceRestores : Prop :=
  ∀ (x y n : Nibble) (s t u : State), x ≠ 0xF#4 → y ≠ 0xF#4 → s.cfg.q.displayWait = false →
    exec (.drw x y n) s = .next t → exec (.drw x y n) t = .next u →
    u.fb = s.fb ∧
    (u.reg 0xF#4 = 1 ↔
      ∃ cx cy, Display.cell s.fb cx cy = false ∧ s.SpritePixel (s.reg x) (s.reg y) n cx cy) ∧
    ((∀ cx cy, s.SpritePixel (s.reg x) (s.reg y) n cx cy → Display.cell s.fb cx cy = false) →
      t.reg 0xF#4 = 0 ∧ (u.reg 0xF#4 = 1 ↔ ∃ cx cy, s.SpritePixel (s.reg x) (s.reg y) n cx cy))

/-- R145, R28: the host's view is the 2048 cells in row-major order. -/
def Obligations.ViewIsRowMajor : Prop :=
  ∀ (s : State) (cx : Fin 64) (cy : Fin 32),
    s.framebufferView.length = 2048 ∧ s.framebufferView[cy.val * 64 + cx.val]? = some (Display.cell s.fb cx cy)

/-! Keypad (spec/44_keypad.md). -/

/-- R150, R151, R173 (the latch is D11's; notes/assumptions/9.md): the key skips, and the fault on an index of 16 or
more. -/
def Obligations.KeySkips : Prop :=
  ∀ (x k : Nibble) (s : State),
    ((s.reg x).toNat = k.toNat →
      exec (.skp x) s = .next { s with pc := if Keys.pressed s.keys k = true then s.pc + 2 else s.pc } ∧
      exec (.sknp x) s = .next { s with pc := if Keys.pressed s.keys k = false then s.pc + 2 else s.pc }) ∧
    (16 ≤ (s.reg x).toNat →
      exec (.skp x) s = .next { s with fault := some .registerOutOfRange } ∧
      exec (.sknp x) s = .next { s with fault := some .registerOutOfRange })

/-- R152, R153 (the scan order is D13's; notes/assumptions/11.md): the five transitions of the key-wait machine. -/
def Obligations.KeyWaitTransitions : Prop :=
  ∀ (x : Nibble) (s : State),
    (s.kw = .idle →
      exec (.ldVxK x) s = .next { s with pc := s.pc - 2, kw := .waitingForPress, keysOnEntry := s.keys }) ∧
    (s.kw = .waitingForPress →
      (∀ k, ¬ (Keys.pressed s.keysOnEntry k = false ∧ Keys.pressed s.keys k = true)) →
      exec (.ldVxK x) s = .next { s with pc := s.pc - 2 }) ∧
    (∀ k : Nibble, s.kw = .waitingForPress → Keys.pressed s.keysOnEntry k = false → Keys.pressed s.keys k = true →
      (∀ j : Nibble, j.toNat < k.toNat → ¬ (Keys.pressed s.keysOnEntry j = false ∧ Keys.pressed s.keys j = true)) →
      exec (.ldVxK x) s = .next { s with pc := s.pc - 2, kw := .waitingForRelease, capturedKey := k }) ∧
    (s.kw = .waitingForRelease → Keys.pressed s.keys s.capturedKey = true →
      exec (.ldVxK x) s = .next { s with pc := s.pc - 2 }) ∧
    (s.kw = .waitingForRelease → Keys.pressed s.keys s.capturedKey = false →
      ∃ t, exec (.ldVxK x) s = .next t ∧ (t.reg x).toNat = s.capturedKey.toNat ∧
        (∀ k, k ≠ x → t.reg k = s.reg k) ∧ t = { s with v := t.v, kw := .idle })

/-- R152, S6 (the latch that a running machine has unset is D11's; notes/assumptions/9.md): on a running machine
about to start a wait, a step, a press of a released key, a step, its release and a step leave the key's index in
`Vx`, `pc` past the instruction, and the memory, the other registers and the keys as they were. -/
def Obligations.PressAndReleaseCompletesTheWait : Prop :=
  ∀ (s : State) (x k : Nibble), s.Running → s.kw = .idle → decode s.fetch = some (.ldVxK x) →
    Keys.pressed s.keys k = false →
    ∃ t, runEvents [.step, .setKey k true, .step, .setKey k false, .step] s = .next t ∧
      (t.reg x).toNat = k.toNat ∧ (∀ j, j ≠ x → t.reg j = s.reg j) ∧ t.pc = s.pc + 2 ∧ t.kw = .idle ∧
      t = { s with v := t.v, pc := t.pc, keysOnEntry := s.keys, capturedKey := k }

/-! Timers (spec/45_timers.md). -/

/-- R160, R161, R162: the timer instructions. -/
def Obligations.TimerInstructions : Prop :=
  (∀ x : Nibble, decode (wordXNN 0xF#4 x 0x07#8) = some (.ldVxDt x) ∧ decode (wordXNN 0xF#4 x 0x15#8) = some (.ldDtVx x) ∧
    decode (wordXNN 0xF#4 x 0x18#8) = some (.ldStVx x)) ∧
  ∀ (x : Nibble) (s : State),
    (∃ t, exec (.ldVxDt x) s = .next t ∧ (∀ k, t.reg k = if k = x then s.dt else s.reg k) ∧ t = { s with v := t.v }) ∧
    exec (.ldDtVx x) s = .next { s with dt := s.reg x } ∧
    exec (.ldStVx x) s = .next { s with st := s.reg x }

/-- R162: the sound timer has no effect on any other state: an instruction run with another value in it, under the
same random answer, does the same to everything else. The model's choice: for CXNN the two executions see the same
byte because both draw at the same count (notes/assumptions/1.md). -/
def Obligations.SoundTimerIsNeverRead : Prop :=
  ∀ (i : Instr) (s t : State) (b : Byte), exec i s = .next t →
    ∃ c, exec i { s with st := b } = .next { t with st := c } ∧ (c = b ∨ ∃ x, i = .ldStVx x)
end

