-- ==== Sys2Proof/Laws/State.lean ====
section
/-! SUPPORT. What each update of Machine/Ops.lean does to each field of the state, and the derived updates in terms
of the plain ones: no later proof unfolds a record update. -/

namespace Sys2Proof.Machine

/-! `State.setReg` -/

@[simp] theorem State.setReg_v (s : State) (k : Nibble) (b : Byte) : (s.setReg k b).v = s.v.set k.toNat b k.isLt := rfl
@[simp] theorem State.setReg_index (s : State) (k : Nibble) (b : Byte) : (s.setReg k b).index = s.index := rfl
@[simp] theorem State.setReg_pc (s : State) (k : Nibble) (b : Byte) : (s.setReg k b).pc = s.pc := rfl
@[simp] theorem State.setReg_stack (s : State) (k : Nibble) (b : Byte) : (s.setReg k b).stack = s.stack := rfl
@[simp] theorem State.setReg_dt (s : State) (k : Nibble) (b : Byte) : (s.setReg k b).dt = s.dt := rfl
@[simp] theorem State.setReg_st (s : State) (k : Nibble) (b : Byte) : (s.setReg k b).st = s.st := rfl
@[simp] theorem State.setReg_keys (s : State) (k : Nibble) (b : Byte) : (s.setReg k b).keys = s.keys := rfl
@[simp] theorem State.setReg_fb (s : State) (k : Nibble) (b : Byte) : (s.setReg k b).fb = s.fb := rfl
@[simp] theorem State.setReg_memory (s : State) (k : Nibble) (b : Byte) : (s.setReg k b).memory = s.memory := rfl
@[simp] theorem State.setReg_kw (s : State) (k : Nibble) (b : Byte) : (s.setReg k b).kw = s.kw := rfl
@[simp] theorem State.setReg_keysOnEntry (s : State) (k : Nibble) (b : Byte) : (s.setReg k b).keysOnEntry = s.keysOnEntry := rfl
@[simp] theorem State.setReg_capturedKey (s : State) (k : Nibble) (b : Byte) : (s.setReg k b).capturedKey = s.capturedKey := rfl
@[simp] theorem State.setReg_fault (s : State) (k : Nibble) (b : Byte) : (s.setReg k b).fault = s.fault := rfl
@[simp] theorem State.setReg_drawLatch (s : State) (k : Nibble) (b : Byte) : (s.setReg k b).drawLatch = s.drawLatch := rfl
@[simp] theorem State.setReg_cfg (s : State) (k : Nibble) (b : Byte) : (s.setReg k b).cfg = s.cfg := rfl
@[simp] theorem State.setReg_rndCount (s : State) (k : Nibble) (b : Byte) : (s.setReg k b).rndCount = s.rndCount := rfl
@[simp] theorem State.setReg_readMem (s : State) (k : Nibble) (b : Byte) (p : Word) : (s.setReg k b).readMem p = s.readMem p := rfl

/-! `State.setIndex` -/

@[simp] theorem State.setIndex_v (s : State) (w : Word) : (s.setIndex w).v = s.v := rfl
@[simp] theorem State.setIndex_index (s : State) (w : Word) : (s.setIndex w).index = w := rfl
@[simp] theorem State.setIndex_pc (s : State) (w : Word) : (s.setIndex w).pc = s.pc := rfl
@[simp] theorem State.setIndex_stack (s : State) (w : Word) : (s.setIndex w).stack = s.stack := rfl
@[simp] theorem State.setIndex_dt (s : State) (w : Word) : (s.setIndex w).dt = s.dt := rfl
@[simp] theorem State.setIndex_st (s : State) (w : Word) : (s.setIndex w).st = s.st := rfl
@[simp] theorem State.setIndex_keys (s : State) (w : Word) : (s.setIndex w).keys = s.keys := rfl
@[simp] theorem State.setIndex_fb (s : State) (w : Word) : (s.setIndex w).fb = s.fb := rfl
@[simp] theorem State.setIndex_memory (s : State) (w : Word) : (s.setIndex w).memory = s.memory := rfl
@[simp] theorem State.setIndex_kw (s : State) (w : Word) : (s.setIndex w).kw = s.kw := rfl
@[simp] theorem State.setIndex_keysOnEntry (s : State) (w : Word) : (s.setIndex w).keysOnEntry = s.keysOnEntry := rfl
@[simp] theorem State.setIndex_capturedKey (s : State) (w : Word) : (s.setIndex w).capturedKey = s.capturedKey := rfl
@[simp] theorem State.setIndex_fault (s : State) (w : Word) : (s.setIndex w).fault = s.fault := rfl
@[simp] theorem State.setIndex_drawLatch (s : State) (w : Word) : (s.setIndex w).drawLatch = s.drawLatch := rfl
@[simp] theorem State.setIndex_cfg (s : State) (w : Word) : (s.setIndex w).cfg = s.cfg := rfl
@[simp] theorem State.setIndex_rndCount (s : State) (w : Word) : (s.setIndex w).rndCount = s.rndCount := rfl
@[simp] theorem State.setIndex_reg (s : State) (w : Word) (k : Nibble) : (s.setIndex w).reg k = s.reg k := rfl
@[simp] theorem State.setIndex_readMem (s : State) (w : Word) (p : Word) : (s.setIndex w).readMem p = s.readMem p := rfl

/-! `State.setPc` -/

@[simp] theorem State.setPc_v (s : State) (w : Word) : (s.setPc w).v = s.v := rfl
@[simp] theorem State.setPc_index (s : State) (w : Word) : (s.setPc w).index = s.index := rfl
@[simp] theorem State.setPc_pc (s : State) (w : Word) : (s.setPc w).pc = w := rfl
@[simp] theorem State.setPc_stack (s : State) (w : Word) : (s.setPc w).stack = s.stack := rfl
@[simp] theorem State.setPc_dt (s : State) (w : Word) : (s.setPc w).dt = s.dt := rfl
@[simp] theorem State.setPc_st (s : State) (w : Word) : (s.setPc w).st = s.st := rfl
@[simp] theorem State.setPc_keys (s : State) (w : Word) : (s.setPc w).keys = s.keys := rfl
@[simp] theorem State.setPc_fb (s : State) (w : Word) : (s.setPc w).fb = s.fb := rfl
@[simp] theorem State.setPc_memory (s : State) (w : Word) : (s.setPc w).memory = s.memory := rfl
@[simp] theorem State.setPc_kw (s : State) (w : Word) : (s.setPc w).kw = s.kw := rfl
@[simp] theorem State.setPc_keysOnEntry (s : State) (w : Word) : (s.setPc w).keysOnEntry = s.keysOnEntry := rfl
@[simp] theorem State.setPc_capturedKey (s : State) (w : Word) : (s.setPc w).capturedKey = s.capturedKey := rfl
@[simp] theorem State.setPc_fault (s : State) (w : Word) : (s.setPc w).fault = s.fault := rfl
@[simp] theorem State.setPc_drawLatch (s : State) (w : Word) : (s.setPc w).drawLatch = s.drawLatch := rfl
@[simp] theorem State.setPc_cfg (s : State) (w : Word) : (s.setPc w).cfg = s.cfg := rfl
@[simp] theorem State.setPc_rndCount (s : State) (w : Word) : (s.setPc w).rndCount = s.rndCount := rfl
@[simp] theorem State.setPc_reg (s : State) (w : Word) (k : Nibble) : (s.setPc w).reg k = s.reg k := rfl
@[simp] theorem State.setPc_readMem (s : State) (w : Word) (p : Word) : (s.setPc w).readMem p = s.readMem p := rfl

/-! `State.setStack` -/

@[simp] theorem State.setStack_v (s : State) (l : List Word) : (s.setStack l).v = s.v := rfl
@[simp] theorem State.setStack_index (s : State) (l : List Word) : (s.setStack l).index = s.index := rfl
@[simp] theorem State.setStack_pc (s : State) (l : List Word) : (s.setStack l).pc = s.pc := rfl
@[simp] theorem State.setStack_stack (s : State) (l : List Word) : (s.setStack l).stack = l := rfl
@[simp] theorem State.setStack_dt (s : State) (l : List Word) : (s.setStack l).dt = s.dt := rfl
@[simp] theorem State.setStack_st (s : State) (l : List Word) : (s.setStack l).st = s.st := rfl
@[simp] theorem State.setStack_keys (s : State) (l : List Word) : (s.setStack l).keys = s.keys := rfl
@[simp] theorem State.setStack_fb (s : State) (l : List Word) : (s.setStack l).fb = s.fb := rfl
@[simp] theorem State.setStack_memory (s : State) (l : List Word) : (s.setStack l).memory = s.memory := rfl
@[simp] theorem State.setStack_kw (s : State) (l : List Word) : (s.setStack l).kw = s.kw := rfl
@[simp] theorem State.setStack_keysOnEntry (s : State) (l : List Word) : (s.setStack l).keysOnEntry = s.keysOnEntry := rfl
@[simp] theorem State.setStack_capturedKey (s : State) (l : List Word) : (s.setStack l).capturedKey = s.capturedKey := rfl
@[simp] theorem State.setStack_fault (s : State) (l : List Word) : (s.setStack l).fault = s.fault := rfl
@[simp] theorem State.setStack_drawLatch (s : State) (l : List Word) : (s.setStack l).drawLatch = s.drawLatch := rfl
@[simp] theorem State.setStack_cfg (s : State) (l : List Word) : (s.setStack l).cfg = s.cfg := rfl
@[simp] theorem State.setStack_rndCount (s : State) (l : List Word) : (s.setStack l).rndCount = s.rndCount := rfl
@[simp] theorem State.setStack_reg (s : State) (l : List Word) (k : Nibble) : (s.setStack l).reg k = s.reg k := rfl
@[simp] theorem State.setStack_readMem (s : State) (l : List Word) (p : Word) : (s.setStack l).readMem p = s.readMem p := rfl

/-! `State.setDt` -/

@[simp] theorem State.setDt_v (s : State) (b : Byte) : (s.setDt b).v = s.v := rfl
@[simp] theorem State.setDt_index (s : State) (b : Byte) : (s.setDt b).index = s.index := rfl
@[simp] theorem State.setDt_pc (s : State) (b : Byte) : (s.setDt b).pc = s.pc := rfl
@[simp] theorem State.setDt_stack (s : State) (b : Byte) : (s.setDt b).stack = s.stack := rfl
@[simp] theorem State.setDt_dt (s : State) (b : Byte) : (s.setDt b).dt = b := rfl
@[simp] theorem State.setDt_st (s : State) (b : Byte) : (s.setDt b).st = s.st := rfl
@[simp] theorem State.setDt_keys (s : State) (b : Byte) : (s.setDt b).keys = s.keys := rfl
@[simp] theorem State.setDt_fb (s : State) (b : Byte) : (s.setDt b).fb = s.fb := rfl
@[simp] theorem State.setDt_memory (s : State) (b : Byte) : (s.setDt b).memory = s.memory := rfl
@[simp] theorem State.setDt_kw (s : State) (b : Byte) : (s.setDt b).kw = s.kw := rfl
@[simp] theorem State.setDt_keysOnEntry (s : State) (b : Byte) : (s.setDt b).keysOnEntry = s.keysOnEntry := rfl
@[simp] theorem State.setDt_capturedKey (s : State) (b : Byte) : (s.setDt b).capturedKey = s.capturedKey := rfl
@[simp] theorem State.setDt_fault (s : State) (b : Byte) : (s.setDt b).fault = s.fault := rfl
@[simp] theorem State.setDt_drawLatch (s : State) (b : Byte) : (s.setDt b).drawLatch = s.drawLatch := rfl
@[simp] theorem State.setDt_cfg (s : State) (b : Byte) : (s.setDt b).cfg = s.cfg := rfl
@[simp] theorem State.setDt_rndCount (s : State) (b : Byte) : (s.setDt b).rndCount = s.rndCount := rfl
@[simp] theorem State.setDt_reg (s : State) (b : Byte) (k : Nibble) : (s.setDt b).reg k = s.reg k := rfl
@[simp] theorem State.setDt_readMem (s : State) (b : Byte) (p : Word) : (s.setDt b).readMem p = s.readMem p := rfl

/-! `State.setSt` -/

@[simp] theorem State.setSt_v (s : State) (b : Byte) : (s.setSt b).v = s.v := rfl
@[simp] theorem State.setSt_index (s : State) (b : Byte) : (s.setSt b).index = s.index := rfl
@[simp] theorem State.setSt_pc (s : State) (b : Byte) : (s.setSt b).pc = s.pc := rfl
@[simp] theorem State.setSt_stack (s : State) (b : Byte) : (s.setSt b).stack = s.stack := rfl
@[simp] theorem State.setSt_dt (s : State) (b : Byte) : (s.setSt b).dt = s.dt := rfl
@[simp] theorem State.setSt_st (s : State) (b : Byte) : (s.setSt b).st = b := rfl
@[simp] theorem State.setSt_keys (s : State) (b : Byte) : (s.setSt b).keys = s.keys := rfl
@[simp] theorem State.setSt_fb (s : State) (b : Byte) : (s.setSt b).fb = s.fb := rfl
@[simp] theorem State.setSt_memory (s : State) (b : Byte) : (s.setSt b).memory = s.memory := rfl
@[simp] theorem State.setSt_kw (s : State) (b : Byte) : (s.setSt b).kw = s.kw := rfl
@[simp] theorem State.setSt_keysOnEntry (s : State) (b : Byte) : (s.setSt b).keysOnEntry = s.keysOnEntry := rfl
@[simp] theorem State.setSt_capturedKey (s : State) (b : Byte) : (s.setSt b).capturedKey = s.capturedKey := rfl
@[simp] theorem State.setSt_fault (s : State) (b : Byte) : (s.setSt b).fault = s.fault := rfl
@[simp] theorem State.setSt_drawLatch (s : State) (b : Byte) : (s.setSt b).drawLatch = s.drawLatch := rfl
@[simp] theorem State.setSt_cfg (s : State) (b : Byte) : (s.setSt b).cfg = s.cfg := rfl
@[simp] theorem State.setSt_rndCount (s : State) (b : Byte) : (s.setSt b).rndCount = s.rndCount := rfl
@[simp] theorem State.setSt_reg (s : State) (b : Byte) (k : Nibble) : (s.setSt b).reg k = s.reg k := rfl
@[simp] theorem State.setSt_readMem (s : State) (b : Byte) (p : Word) : (s.setSt b).readMem p = s.readMem p := rfl

/-! `State.writeMem` -/

@[simp] theorem State.writeMem_v (s : State) (a : Word) (b : Byte) : (s.writeMem a b).v = s.v := rfl
@[simp] theorem State.writeMem_index (s : State) (a : Word) (b : Byte) : (s.writeMem a b).index = s.index := rfl
@[simp] theorem State.writeMem_pc (s : State) (a : Word) (b : Byte) : (s.writeMem a b).pc = s.pc := rfl
@[simp] theorem State.writeMem_stack (s : State) (a : Word) (b : Byte) : (s.writeMem a b).stack = s.stack := rfl
@[simp] theorem State.writeMem_dt (s : State) (a : Word) (b : Byte) : (s.writeMem a b).dt = s.dt := rfl
@[simp] theorem State.writeMem_st (s : State) (a : Word) (b : Byte) : (s.writeMem a b).st = s.st := rfl
@[simp] theorem State.writeMem_keys (s : State) (a : Word) (b : Byte) : (s.writeMem a b).keys = s.keys := rfl
@[simp] theorem State.writeMem_fb (s : State) (a : Word) (b : Byte) : (s.writeMem a b).fb = s.fb := rfl
@[simp] theorem State.writeMem_memory (s : State) (a : Word) (b : Byte) : (s.writeMem a b).memory = Memory.write s.memory (memIndex a) b := rfl
@[simp] theorem State.writeMem_kw (s : State) (a : Word) (b : Byte) : (s.writeMem a b).kw = s.kw := rfl
@[simp] theorem State.writeMem_keysOnEntry (s : State) (a : Word) (b : Byte) : (s.writeMem a b).keysOnEntry = s.keysOnEntry := rfl
@[simp] theorem State.writeMem_capturedKey (s : State) (a : Word) (b : Byte) : (s.writeMem a b).capturedKey = s.capturedKey := rfl
@[simp] theorem State.writeMem_fault (s : State) (a : Word) (b : Byte) : (s.writeMem a b).fault = s.fault := rfl
@[simp] theorem State.writeMem_drawLatch (s : State) (a : Word) (b : Byte) : (s.writeMem a b).drawLatch = s.drawLatch := rfl
@[simp] theorem State.writeMem_cfg (s : State) (a : Word) (b : Byte) : (s.writeMem a b).cfg = s.cfg := rfl
@[simp] theorem State.writeMem_rndCount (s : State) (a : Word) (b : Byte) : (s.writeMem a b).rndCount = s.rndCount := rfl
@[simp] theorem State.writeMem_reg (s : State) (a : Word) (b : Byte) (k : Nibble) : (s.writeMem a b).reg k = s.reg k := rfl

/-! `State.setFb` -/

@[simp] theorem State.setFb_v (s : State) (d : Display) : (s.setFb d).v = s.v := rfl
@[simp] theorem State.setFb_index (s : State) (d : Display) : (s.setFb d).index = s.index := rfl
@[simp] theorem State.setFb_pc (s : State) (d : Display) : (s.setFb d).pc = s.pc := rfl
@[simp] theorem State.setFb_stack (s : State) (d : Display) : (s.setFb d).stack = s.stack := rfl
@[simp] theorem State.setFb_dt (s : State) (d : Display) : (s.setFb d).dt = s.dt := rfl
@[simp] theorem State.setFb_st (s : State) (d : Display) : (s.setFb d).st = s.st := rfl
@[simp] theorem State.setFb_keys (s : State) (d : Display) : (s.setFb d).keys = s.keys := rfl
@[simp] theorem State.setFb_fb (s : State) (d : Display) : (s.setFb d).fb = d := rfl
@[simp] theorem State.setFb_memory (s : State) (d : Display) : (s.setFb d).memory = s.memory := rfl
@[simp] theorem State.setFb_kw (s : State) (d : Display) : (s.setFb d).kw = s.kw := rfl
@[simp] theorem State.setFb_keysOnEntry (s : State) (d : Display) : (s.setFb d).keysOnEntry = s.keysOnEntry := rfl
@[simp] theorem State.setFb_capturedKey (s : State) (d : Display) : (s.setFb d).capturedKey = s.capturedKey := rfl
@[simp] theorem State.setFb_fault (s : State) (d : Display) : (s.setFb d).fault = s.fault := rfl
@[simp] theorem State.setFb_drawLatch (s : State) (d : Display) : (s.setFb d).drawLatch = s.drawLatch := rfl
@[simp] theorem State.setFb_cfg (s : State) (d : Display) : (s.setFb d).cfg = s.cfg := rfl
@[simp] theorem State.setFb_rndCount (s : State) (d : Display) : (s.setFb d).rndCount = s.rndCount := rfl
@[simp] theorem State.setFb_reg (s : State) (d : Display) (k : Nibble) : (s.setFb d).reg k = s.reg k := rfl
@[simp] theorem State.setFb_readMem (s : State) (d : Display) (p : Word) : (s.setFb d).readMem p = s.readMem p := rfl

/-! `State.setDrawLatch` -/

@[simp] theorem State.setDrawLatch_v (s : State) (b : Bool) : (s.setDrawLatch b).v = s.v := rfl
@[simp] theorem State.setDrawLatch_index (s : State) (b : Bool) : (s.setDrawLatch b).index = s.index := rfl
@[simp] theorem State.setDrawLatch_pc (s : State) (b : Bool) : (s.setDrawLatch b).pc = s.pc := rfl
@[simp] theorem State.setDrawLatch_stack (s : State) (b : Bool) : (s.setDrawLatch b).stack = s.stack := rfl
@[simp] theorem State.setDrawLatch_dt (s : State) (b : Bool) : (s.setDrawLatch b).dt = s.dt := rfl
@[simp] theorem State.setDrawLatch_st (s : State) (b : Bool) : (s.setDrawLatch b).st = s.st := rfl
@[simp] theorem State.setDrawLatch_keys (s : State) (b : Bool) : (s.setDrawLatch b).keys = s.keys := rfl
@[simp] theorem State.setDrawLatch_fb (s : State) (b : Bool) : (s.setDrawLatch b).fb = s.fb := rfl
@[simp] theorem State.setDrawLatch_memory (s : State) (b : Bool) : (s.setDrawLatch b).memory = s.memory := rfl
@[simp] theorem State.setDrawLatch_kw (s : State) (b : Bool) : (s.setDrawLatch b).kw = s.kw := rfl
@[simp] theorem State.setDrawLatch_keysOnEntry (s : State) (b : Bool) : (s.setDrawLatch b).keysOnEntry = s.keysOnEntry := rfl
@[simp] theorem State.setDrawLatch_capturedKey (s : State) (b : Bool) : (s.setDrawLatch b).capturedKey = s.capturedKey := rfl
@[simp] theorem State.setDrawLatch_fault (s : State) (b : Bool) : (s.setDrawLatch b).fault = s.fault := rfl
@[simp] theorem State.setDrawLatch_drawLatch (s : State) (b : Bool) : (s.setDrawLatch b).drawLatch = b := rfl
@[simp] theorem State.setDrawLatch_cfg (s : State) (b : Bool) : (s.setDrawLatch b).cfg = s.cfg := rfl
@[simp] theorem State.setDrawLatch_rndCount (s : State) (b : Bool) : (s.setDrawLatch b).rndCount = s.rndCount := rfl
@[simp] theorem State.setDrawLatch_reg (s : State) (b : Bool) (k : Nibble) : (s.setDrawLatch b).reg k = s.reg k := rfl
@[simp] theorem State.setDrawLatch_readMem (s : State) (b : Bool) (p : Word) : (s.setDrawLatch b).readMem p = s.readMem p := rfl

/-! `State.setKeys` -/

@[simp] theorem State.setKeys_v (s : State) (ks : Keys) : (s.setKeys ks).v = s.v := rfl
@[simp] theorem State.setKeys_index (s : State) (ks : Keys) : (s.setKeys ks).index = s.index := rfl
@[simp] theorem State.setKeys_pc (s : State) (ks : Keys) : (s.setKeys ks).pc = s.pc := rfl
@[simp] theorem State.setKeys_stack (s : State) (ks : Keys) : (s.setKeys ks).stack = s.stack := rfl
@[simp] theorem State.setKeys_dt (s : State) (ks : Keys) : (s.setKeys ks).dt = s.dt := rfl
@[simp] theorem State.setKeys_st (s : State) (ks : Keys) : (s.setKeys ks).st = s.st := rfl
@[simp] theorem State.setKeys_keys (s : State) (ks : Keys) : (s.setKeys ks).keys = ks := rfl
@[simp] theorem State.setKeys_fb (s : State) (ks : Keys) : (s.setKeys ks).fb = s.fb := rfl
@[simp] theorem State.setKeys_memory (s : State) (ks : Keys) : (s.setKeys ks).memory = s.memory := rfl
@[simp] theorem State.setKeys_kw (s : State) (ks : Keys) : (s.setKeys ks).kw = s.kw := rfl
@[simp] theorem State.setKeys_keysOnEntry (s : State) (ks : Keys) : (s.setKeys ks).keysOnEntry = s.keysOnEntry := rfl
@[simp] theorem State.setKeys_capturedKey (s : State) (ks : Keys) : (s.setKeys ks).capturedKey = s.capturedKey := rfl
@[simp] theorem State.setKeys_fault (s : State) (ks : Keys) : (s.setKeys ks).fault = s.fault := rfl
@[simp] theorem State.setKeys_drawLatch (s : State) (ks : Keys) : (s.setKeys ks).drawLatch = s.drawLatch := rfl
@[simp] theorem State.setKeys_cfg (s : State) (ks : Keys) : (s.setKeys ks).cfg = s.cfg := rfl
@[simp] theorem State.setKeys_rndCount (s : State) (ks : Keys) : (s.setKeys ks).rndCount = s.rndCount := rfl
@[simp] theorem State.setKeys_reg (s : State) (ks : Keys) (k : Nibble) : (s.setKeys ks).reg k = s.reg k := rfl
@[simp] theorem State.setKeys_readMem (s : State) (ks : Keys) (p : Word) : (s.setKeys ks).readMem p = s.readMem p := rfl

/-! `State.setKw` -/

@[simp] theorem State.setKw_v (s : State) (w : KeyWait) : (s.setKw w).v = s.v := rfl
@[simp] theorem State.setKw_index (s : State) (w : KeyWait) : (s.setKw w).index = s.index := rfl
@[simp] theorem State.setKw_pc (s : State) (w : KeyWait) : (s.setKw w).pc = s.pc := rfl
@[simp] theorem State.setKw_stack (s : State) (w : KeyWait) : (s.setKw w).stack = s.stack := rfl
@[simp] theorem State.setKw_dt (s : State) (w : KeyWait) : (s.setKw w).dt = s.dt := rfl
@[simp] theorem State.setKw_st (s : State) (w : KeyWait) : (s.setKw w).st = s.st := rfl
@[simp] theorem State.setKw_keys (s : State) (w : KeyWait) : (s.setKw w).keys = s.keys := rfl
@[simp] theorem State.setKw_fb (s : State) (w : KeyWait) : (s.setKw w).fb = s.fb := rfl
@[simp] theorem State.setKw_memory (s : State) (w : KeyWait) : (s.setKw w).memory = s.memory := rfl
@[simp] theorem State.setKw_kw (s : State) (w : KeyWait) : (s.setKw w).kw = w := rfl
@[simp] theorem State.setKw_keysOnEntry (s : State) (w : KeyWait) : (s.setKw w).keysOnEntry = s.keysOnEntry := rfl
@[simp] theorem State.setKw_capturedKey (s : State) (w : KeyWait) : (s.setKw w).capturedKey = s.capturedKey := rfl
@[simp] theorem State.setKw_fault (s : State) (w : KeyWait) : (s.setKw w).fault = s.fault := rfl
@[simp] theorem State.setKw_drawLatch (s : State) (w : KeyWait) : (s.setKw w).drawLatch = s.drawLatch := rfl
@[simp] theorem State.setKw_cfg (s : State) (w : KeyWait) : (s.setKw w).cfg = s.cfg := rfl
@[simp] theorem State.setKw_rndCount (s : State) (w : KeyWait) : (s.setKw w).rndCount = s.rndCount := rfl
@[simp] theorem State.setKw_reg (s : State) (w : KeyWait) (k : Nibble) : (s.setKw w).reg k = s.reg k := rfl
@[simp] theorem State.setKw_readMem (s : State) (w : KeyWait) (p : Word) : (s.setKw w).readMem p = s.readMem p := rfl

/-! `State.setKeysOnEntry` -/

@[simp] theorem State.setKeysOnEntry_v (s : State) (ks : Keys) : (s.setKeysOnEntry ks).v = s.v := rfl
@[simp] theorem State.setKeysOnEntry_index (s : State) (ks : Keys) : (s.setKeysOnEntry ks).index = s.index := rfl
@[simp] theorem State.setKeysOnEntry_pc (s : State) (ks : Keys) : (s.setKeysOnEntry ks).pc = s.pc := rfl
@[simp] theorem State.setKeysOnEntry_stack (s : State) (ks : Keys) : (s.setKeysOnEntry ks).stack = s.stack := rfl
@[simp] theorem State.setKeysOnEntry_dt (s : State) (ks : Keys) : (s.setKeysOnEntry ks).dt = s.dt := rfl
@[simp] theorem State.setKeysOnEntry_st (s : State) (ks : Keys) : (s.setKeysOnEntry ks).st = s.st := rfl
@[simp] theorem State.setKeysOnEntry_keys (s : State) (ks : Keys) : (s.setKeysOnEntry ks).keys = s.keys := rfl
@[simp] theorem State.setKeysOnEntry_fb (s : State) (ks : Keys) : (s.setKeysOnEntry ks).fb = s.fb := rfl
@[simp] theorem State.setKeysOnEntry_memory (s : State) (ks : Keys) : (s.setKeysOnEntry ks).memory = s.memory := rfl
@[simp] theorem State.setKeysOnEntry_kw (s : State) (ks : Keys) : (s.setKeysOnEntry ks).kw = s.kw := rfl
@[simp] theorem State.setKeysOnEntry_keysOnEntry (s : State) (ks : Keys) : (s.setKeysOnEntry ks).keysOnEntry = ks := rfl
@[simp] theorem State.setKeysOnEntry_capturedKey (s : State) (ks : Keys) : (s.setKeysOnEntry ks).capturedKey = s.capturedKey := rfl
@[simp] theorem State.setKeysOnEntry_fault (s : State) (ks : Keys) : (s.setKeysOnEntry ks).fault = s.fault := rfl
@[simp] theorem State.setKeysOnEntry_drawLatch (s : State) (ks : Keys) : (s.setKeysOnEntry ks).drawLatch = s.drawLatch := rfl
@[simp] theorem State.setKeysOnEntry_cfg (s : State) (ks : Keys) : (s.setKeysOnEntry ks).cfg = s.cfg := rfl
@[simp] theorem State.setKeysOnEntry_rndCount (s : State) (ks : Keys) : (s.setKeysOnEntry ks).rndCount = s.rndCount := rfl
@[simp] theorem State.setKeysOnEntry_reg (s : State) (ks : Keys) (k : Nibble) : (s.setKeysOnEntry ks).reg k = s.reg k := rfl
@[simp] theorem State.setKeysOnEntry_readMem (s : State) (ks : Keys) (p : Word) : (s.setKeysOnEntry ks).readMem p = s.readMem p := rfl

/-! `State.setCapturedKey` -/

@[simp] theorem State.setCapturedKey_v (s : State) (k : Nibble) : (s.setCapturedKey k).v = s.v := rfl
@[simp] theorem State.setCapturedKey_index (s : State) (k : Nibble) : (s.setCapturedKey k).index = s.index := rfl
@[simp] theorem State.setCapturedKey_pc (s : State) (k : Nibble) : (s.setCapturedKey k).pc = s.pc := rfl
@[simp] theorem State.setCapturedKey_stack (s : State) (k : Nibble) : (s.setCapturedKey k).stack = s.stack := rfl
@[simp] theorem State.setCapturedKey_dt (s : State) (k : Nibble) : (s.setCapturedKey k).dt = s.dt := rfl
@[simp] theorem State.setCapturedKey_st (s : State) (k : Nibble) : (s.setCapturedKey k).st = s.st := rfl
@[simp] theorem State.setCapturedKey_keys (s : State) (k : Nibble) : (s.setCapturedKey k).keys = s.keys := rfl
@[simp] theorem State.setCapturedKey_fb (s : State) (k : Nibble) : (s.setCapturedKey k).fb = s.fb := rfl
@[simp] theorem State.setCapturedKey_memory (s : State) (k : Nibble) : (s.setCapturedKey k).memory = s.memory := rfl
@[simp] theorem State.setCapturedKey_kw (s : State) (k : Nibble) : (s.setCapturedKey k).kw = s.kw := rfl
@[simp] theorem State.setCapturedKey_keysOnEntry (s : State) (k : Nibble) : (s.setCapturedKey k).keysOnEntry = s.keysOnEntry := rfl
@[simp] theorem State.setCapturedKey_capturedKey (s : State) (k : Nibble) : (s.setCapturedKey k).capturedKey = k := rfl
@[simp] theorem State.setCapturedKey_fault (s : State) (k : Nibble) : (s.setCapturedKey k).fault = s.fault := rfl
@[simp] theorem State.setCapturedKey_drawLatch (s : State) (k : Nibble) : (s.setCapturedKey k).drawLatch = s.drawLatch := rfl
@[simp] theorem State.setCapturedKey_cfg (s : State) (k : Nibble) : (s.setCapturedKey k).cfg = s.cfg := rfl
@[simp] theorem State.setCapturedKey_rndCount (s : State) (k : Nibble) : (s.setCapturedKey k).rndCount = s.rndCount := rfl
@[simp] theorem State.setCapturedKey_reg (s : State) (j : Nibble) (k : Nibble) : (s.setCapturedKey j).reg k = s.reg k := rfl
@[simp] theorem State.setCapturedKey_readMem (s : State) (k : Nibble) (p : Word) : (s.setCapturedKey k).readMem p = s.readMem p := rfl

/-! `State.consumeRnd` -/

@[simp] theorem State.consumeRnd_v (s : State) : s.consumeRnd.v = s.v := rfl
@[simp] theorem State.consumeRnd_index (s : State) : s.consumeRnd.index = s.index := rfl
@[simp] theorem State.consumeRnd_pc (s : State) : s.consumeRnd.pc = s.pc := rfl
@[simp] theorem State.consumeRnd_stack (s : State) : s.consumeRnd.stack = s.stack := rfl
@[simp] theorem State.consumeRnd_dt (s : State) : s.consumeRnd.dt = s.dt := rfl
@[simp] theorem State.consumeRnd_st (s : State) : s.consumeRnd.st = s.st := rfl
@[simp] theorem State.consumeRnd_keys (s : State) : s.consumeRnd.keys = s.keys := rfl
@[simp] theorem State.consumeRnd_fb (s : State) : s.consumeRnd.fb = s.fb := rfl
@[simp] theorem State.consumeRnd_memory (s : State) : s.consumeRnd.memory = s.memory := rfl
@[simp] theorem State.consumeRnd_kw (s : State) : s.consumeRnd.kw = s.kw := rfl
@[simp] theorem State.consumeRnd_keysOnEntry (s : State) : s.consumeRnd.keysOnEntry = s.keysOnEntry := rfl
@[simp] theorem State.consumeRnd_capturedKey (s : State) : s.consumeRnd.capturedKey = s.capturedKey := rfl
@[simp] theorem State.consumeRnd_fault (s : State) : s.consumeRnd.fault = s.fault := rfl
@[simp] theorem State.consumeRnd_drawLatch (s : State) : s.consumeRnd.drawLatch = s.drawLatch := rfl
@[simp] theorem State.consumeRnd_cfg (s : State) : s.consumeRnd.cfg = s.cfg := rfl
@[simp] theorem State.consumeRnd_rndCount (s : State) : s.consumeRnd.rndCount = s.rndCount + 1 := rfl
@[simp] theorem State.consumeRnd_reg (s : State) (k : Nibble) : s.consumeRnd.reg k = s.reg k := rfl
@[simp] theorem State.consumeRnd_readMem (s : State) (p : Word) : s.consumeRnd.readMem p = s.readMem p := rfl

/-! `State.raise` -/

@[simp] theorem State.raise_v (s : State) (e : Fault) : (s.raise e).v = s.v := rfl
@[simp] theorem State.raise_index (s : State) (e : Fault) : (s.raise e).index = s.index := rfl
@[simp] theorem State.raise_pc (s : State) (e : Fault) : (s.raise e).pc = s.pc := rfl
@[simp] theorem State.raise_stack (s : State) (e : Fault) : (s.raise e).stack = s.stack := rfl
@[simp] theorem State.raise_dt (s : State) (e : Fault) : (s.raise e).dt = s.dt := rfl
@[simp] theorem State.raise_st (s : State) (e : Fault) : (s.raise e).st = s.st := rfl
@[simp] theorem State.raise_keys (s : State) (e : Fault) : (s.raise e).keys = s.keys := rfl
@[simp] theorem State.raise_fb (s : State) (e : Fault) : (s.raise e).fb = s.fb := rfl
@[simp] theorem State.raise_memory (s : State) (e : Fault) : (s.raise e).memory = s.memory := rfl
@[simp] theorem State.raise_kw (s : State) (e : Fault) : (s.raise e).kw = s.kw := rfl
@[simp] theorem State.raise_keysOnEntry (s : State) (e : Fault) : (s.raise e).keysOnEntry = s.keysOnEntry := rfl
@[simp] theorem State.raise_capturedKey (s : State) (e : Fault) : (s.raise e).capturedKey = s.capturedKey := rfl
@[simp] theorem State.raise_fault (s : State) (e : Fault) : (s.raise e).fault = some e := rfl
@[simp] theorem State.raise_drawLatch (s : State) (e : Fault) : (s.raise e).drawLatch = s.drawLatch := rfl
@[simp] theorem State.raise_cfg (s : State) (e : Fault) : (s.raise e).cfg = s.cfg := rfl
@[simp] theorem State.raise_rndCount (s : State) (e : Fault) : (s.raise e).rndCount = s.rndCount := rfl
@[simp] theorem State.raise_reg (s : State) (e : Fault) (k : Nibble) : (s.raise e).reg k = s.reg k := rfl
@[simp] theorem State.raise_readMem (s : State) (e : Fault) (p : Word) : (s.raise e).readMem p = s.readMem p := rfl

/-! The two reads after the writes they meet. -/

@[simp] theorem State.reg_setReg (s : State) (k j : Nibble) (b : Byte) :
    (s.setReg k b).reg j = if j = k then b else s.reg j := by
  simp [State.reg, State.setReg, Vector.getElem_set, BitVec.toNat_inj, eq_comm]

/-- Two states agree on `v` when they agree on every register. -/
theorem regs_ext {a b : Vector Byte 16} (h : ∀ k : Nibble, a[k.toNat]'k.isLt = b[k.toNat]'k.isLt) : a = b := by
  refine Vector.ext fun i hi => ?_
  simpa [Nat.mod_eq_of_lt hi] using h (BitVec.ofNat 4 i)

/-! The derived updates. -/

@[simp] theorem State.preIncrement_eq (s : State) : s.preIncrement = s.setPc (s.pc + 2) := rfl
@[simp] theorem State.skipIf_eq (s : State) (c : Bool) :
    s.skipIf c = s.setPc (if c then s.pc + 2 else s.pc) := rfl
@[simp] theorem State.rewind_eq (s : State) : s.rewind = s.setPc (s.pc - 2) := rfl
@[simp] theorem State.push_eq (s : State) (w : Word) : s.push w = s.setStack (w :: s.stack) := rfl
@[simp] theorem State.depth_eq (s : State) : s.depth = s.stack.length := rfl
@[simp] theorem State.setVF_eq (s : State) (b : Byte) : s.setVF b = s.setReg flagReg b := rfl
@[simp] theorem State.writeFlagged_eq (s : State) (x : Nibble) (r f : Byte) :
    s.writeFlagged x r f = (s.setReg flagReg f).setReg x r := rfl
@[simp] theorem State.advanceIndex_eq (s : State) (x : Nibble) :
    s.advanceIndex x = s.setIndex (if s.cfg.q.memory then s.index else s.ea (x.toNat + 1)) := rfl
@[simp] theorem State.timersTick_eq (s : State) :
    s.timersTick = ((s.setDt (countDown s.dt)).setSt (countDown s.st)).setDrawLatch false := rfl
@[simp] theorem State.setKey_eq (s : State) (k : Nibble) (p : Bool) :
    s.setKey k p = s.setKeys (s.keys.set k.toNat p k.isLt) := rfl

/-- The logic instructions' write: the result in `Vx`, and 0 in `VF` only with `Q.VfReset` and `x` not F. -/
theorem State.reg_writeLogic (s : State) (x k : Nibble) (r : Byte) :
    (s.writeLogic x r).reg k =
      if k = x then r else if k = flagReg ∧ s.cfg.q.vfReset = true then 0 else s.reg k := by
  unfold State.writeLogic
  cases s.cfg.q.vfReset <;> simp

/-- The logic instructions' write touches the general registers only. -/
theorem State.writeLogic_frame (s : State) (x : Nibble) (r : Byte) :
    s.writeLogic x r = { s with v := (s.writeLogic x r).v } := by
  unfold State.writeLogic
  split <;> rfl

@[simp] theorem Keys.pressed_set (ks : Keys) (k j : Nibble) (p : Bool) :
    Keys.pressed (ks.set k.toNat p k.isLt) j = if j = k then p else Keys.pressed ks j := by
  simp [Keys.pressed, Vector.getElem_set, BitVec.toNat_inj, eq_comm]

end Sys2Proof.Machine
end

