-- ==== Sys2Proof/Laws/Memory.lean ====
section
/-! SUPPORT. The memory port (spec/20_memory.md R53, R56): read after write, the canonical form kept by every
memory operation, and what the block transfers of FX55 and FX65 do. -/

namespace Sys2Proof.Machine

theorem memIndex_lt (a : Word) : memIndex a < Config.memSize := Nat.mod_lt _ (by decide)

theorem Memory.read_eraseCell (m : Memory) (k j : Nat) :
    Memory.read (Memory.eraseCell m k) j = if j = k then memDefault j else Memory.read m j := by
  induction m with
  | nil => simp [Memory.eraseCell, Memory.read]
  | cons c rest ih =>
    obtain ⟨a, b⟩ := c
    by_cases h : a = k
    · subst h
      by_cases hj : j = a
      · rw [Memory.eraseCell, if_pos rfl, ih]
        simp [hj]
      · simp [Memory.eraseCell, Memory.read, ih, hj, Ne.symm hj]
    · by_cases hj : a = j
      · subst hj
        simp [Memory.eraseCell, Memory.read, h]
      · simp [Memory.eraseCell, Memory.read, h, hj, ih]

theorem Memory.read_insertCell (m : Memory) (k j : Nat) (b : Byte) (h : ∀ c ∈ m, c.1 ≠ k) :
    Memory.read (Memory.insertCell m k b) j = if j = k then b else Memory.read m j := by
  induction m with
  | nil => simp [Memory.insertCell, Memory.read, eq_comm]
  | cons c rest ih =>
    obtain ⟨a, d⟩ := c
    have ha : a ≠ k := h (a, d) (by simp)
    have hr := ih fun c hc => h c (by simp [hc])
    by_cases hk : k < a
    · simp only [Memory.insertCell, hk, if_true, Memory.read]
      simp only [eq_comm (a := k) (b := j)]
    · simp only [Memory.insertCell, hk, if_false, Memory.read, hr]
      by_cases hj : a = j
      · subst hj
        simp [ha]
      · simp [hj]

theorem Memory.not_mem_eraseCell (m : Memory) (k : Nat) : ∀ c ∈ Memory.eraseCell m k, c.1 ≠ k := by
  induction m with
  | nil => simp [Memory.eraseCell]
  | cons c rest ih =>
    obtain ⟨a, b⟩ := c
    by_cases h : a = k
    · simpa [Memory.eraseCell, h] using ih
    · simpa [Memory.eraseCell, h] using ih

/-- Read after write, at any index of any memory (R56). -/
theorem Memory.read_write (m : Memory) (k j : Nat) (b : Byte) :
    Memory.read (Memory.write m k b) j = if j = k then b else Memory.read m j := by
  unfold Memory.write
  split
  · rename_i hb
    rw [Memory.read_eraseCell]
    split
    · rename_i hj
      rw [hb, hj]
    · rfl
  · rw [Memory.read_insertCell _ _ _ _ (Memory.not_mem_eraseCell m k), Memory.read_eraseCell]
    split <;> rfl

theorem Memory.wfFrom_mono {lo lo' : Nat} (m : Memory) (hle : lo' ≤ lo) (h : Memory.wfFrom lo m = true) :
    Memory.wfFrom lo' m = true := by
  cases m with
  | nil => rfl
  | cons c rest =>
    obtain ⟨a, b⟩ := c
    simp only [Memory.wfFrom, Bool.and_eq_true, decide_eq_true_eq] at h ⊢
    exact ⟨⟨⟨by omega, h.1.1.2⟩, h.1.2⟩, h.2⟩

theorem Memory.wfFrom_eraseCell (m : Memory) (k : Nat) :
    ∀ lo, Memory.wfFrom lo m = true → Memory.wfFrom lo (Memory.eraseCell m k) = true := by
  induction m with
  | nil => intro lo _; rfl
  | cons c rest ih =>
    obtain ⟨a, b⟩ := c
    intro lo h
    simp only [Memory.wfFrom, Bool.and_eq_true, decide_eq_true_eq] at h
    by_cases ha : a = k
    · simp only [Memory.eraseCell, ha, if_true]
      exact Memory.wfFrom_mono _ (by omega : lo ≤ a + 1) (ih _ h.2)
    · simp only [Memory.eraseCell, ha, if_false, Memory.wfFrom, Bool.and_eq_true, decide_eq_true_eq]
      exact ⟨h.1, ih _ h.2⟩

theorem Memory.wfFrom_insertCell (m : Memory) (k : Nat) (b : Byte) (hk : k < Config.memSize)
    (hb : b ≠ memDefault k) (hn : ∀ c ∈ m, c.1 ≠ k) :
    ∀ lo, lo ≤ k → Memory.wfFrom lo m = true → Memory.wfFrom lo (Memory.insertCell m k b) = true := by
  induction m with
  | nil =>
    intro lo hlo _
    simp [Memory.insertCell, Memory.wfFrom, hlo, hk, hb]
  | cons c rest ih =>
    obtain ⟨a, d⟩ := c
    intro lo hlo h
    have ha : a ≠ k := hn (a, d) (by simp)
    simp only [Memory.wfFrom, Bool.and_eq_true, decide_eq_true_eq] at h
    by_cases hka : k < a
    · simp only [Memory.insertCell, hka, if_true, Memory.wfFrom, Bool.and_eq_true, decide_eq_true_eq]
      exact ⟨⟨⟨hlo, hk⟩, by simpa using hb⟩, ⟨⟨by omega, h.1.1.2⟩, h.1.2⟩, h.2⟩
    · simp only [Memory.insertCell, hka, if_false, Memory.wfFrom, Bool.and_eq_true, decide_eq_true_eq]
      exact ⟨h.1, ih (fun c hc => hn c (by simp [hc])) _ (by omega) h.2⟩

/-- A write keeps the canonical form. -/
theorem Memory.wf_write (m : Memory) (k : Nat) (b : Byte) (hk : k < Config.memSize) (h : Memory.wf m = true) :
    Memory.wf (Memory.write m k b) = true := by
  unfold Memory.write Memory.wf
  split
  · exact Memory.wfFrom_eraseCell m k 0 h
  · rename_i hb
    exact Memory.wfFrom_insertCell _ k b hk hb (Memory.not_mem_eraseCell m k) 0 (Nat.zero_le _)
      (Memory.wfFrom_eraseCell m k 0 h)

/-- The reset's memory has the canonical form. -/
theorem Memory.wf_reset : Memory.wf State.reset.memory = true := rfl

/-- The byte port: a byte written is read at every address that reaches the same index, and no other byte changes. -/
@[simp] theorem State.readMem_writeMem (s : State) (a p : Word) (b : Byte) :
    (s.writeMem a b).readMem p = if memIndex p = memIndex a then b else s.readMem p := by
  simp [State.readMem, Memory.read_write]

/-- The byte port keeps the canonical form. -/
theorem State.wf_writeMem (s : State) (a : Word) (b : Byte) (h : Memory.wf s.memory = true) :
    Memory.wf (s.writeMem a b).memory = true :=
  Memory.wf_write _ _ _ (memIndex_lt a) h

/-- `writeBytes` touches the memory only. -/
theorem State.writeBytes_frame (bs : List Byte) :
    ∀ (s : State) (a : Word), s.writeBytes a bs = { s with memory := (s.writeBytes a bs).memory } := by
  induction bs with
  | nil => intro s a; rfl
  | cons b rest ih =>
    intro s a
    rw [State.writeBytes, ih]
    rfl

/-- FX55's transfer touches the memory only. -/
theorem State.storeRegs_frame (s : State) (base : Word) (n : Nat) :
    s.storeRegs base n = { s with memory := (s.storeRegs base n).memory } := by
  induction n with
  | zero => rfl
  | succ n ih =>
    rw [State.storeRegs, ih]
    rfl

/-- FX55's transfer keeps the canonical form. -/
theorem State.wf_storeRegs (s : State) (base : Word) (n : Nat) (h : Memory.wf s.memory = true) :
    Memory.wf (s.storeRegs base n).memory = true := by
  induction n with
  | zero => exact h
  | succ n ih => exact State.wf_writeMem _ _ _ ih

theorem memIndex_add_inj (base : Word) {i j : Nat} (hi : i < 16) (hj : j < 16)
    (h : memIndex (base + BitVec.ofNat 16 i) = memIndex (base + BitVec.ofNat 16 j)) : i = j := by
  simp only [memIndex, Config.memSize, BitVec.toNat_add, BitVec.toNat_ofNat] at h
  omega

/-- What FX55's transfer of at most 16 registers leaves in memory: register `i` at `base + i`. -/
theorem State.readMem_storeRegs_hit (s : State) (base : Word) (n : Nat) (hn : n ≤ 16) (i : Nat) (hi : i < n) :
    (s.storeRegs base n).readMem (base + BitVec.ofNat 16 i) = s.reg (BitVec.ofNat 4 i) := by
  induction n with
  | zero => omega
  | succ n ih =>
    rw [State.storeRegs, State.readMem_writeMem]
    by_cases h : i = n
    · simp [h]
    · rw [if_neg fun e => h (memIndex_add_inj base (by omega) (by omega) e)]
      exact ih (by omega) (by omega)

/-- FX55's transfer changes no byte outside the addresses it stores to. -/
theorem State.readMem_storeRegs_miss (s : State) (base p : Word) (n : Nat)
    (h : ∀ i < n, memIndex p ≠ memIndex (base + BitVec.ofNat 16 i)) :
    (s.storeRegs base n).readMem p = s.readMem p := by
  induction n with
  | zero => rfl
  | succ n ih =>
    rw [State.storeRegs, State.readMem_writeMem, if_neg (h n (by omega))]
    exact ih fun i hi => h i (by omega)

/-- FX65's transfer touches the general registers only. -/
theorem State.loadRegs_frame (s : State) (base : Word) (n : Nat) :
    s.loadRegs base n = { s with v := (s.loadRegs base n).v } := by
  induction n with
  | zero => rfl
  | succ n ih =>
    rw [State.loadRegs, ih]
    rfl

/-- What FX65's transfer of at most 16 registers leaves in each register. -/
theorem State.reg_loadRegs (s : State) (base : Word) (n : Nat) (hn : n ≤ 16) (k : Nibble) :
    (s.loadRegs base n).reg k =
      if k.toNat < n then s.readMem (base + BitVec.ofNat 16 k.toNat) else s.reg k := by
  induction n with
  | zero => simp [State.loadRegs]
  | succ n ih =>
    rw [State.loadRegs, State.reg_setReg, ih (by omega)]
    by_cases h : k = BitVec.ofNat 4 n
    · subst h
      have hm : n % 16 = n := Nat.mod_eq_of_lt (by omega)
      simp [hm]
    · have hne : k.toNat ≠ n := fun e => h (by rw [← e]; simp)
      rw [if_neg h]
      by_cases hk : k.toNat < n
      · simp [hk, Nat.lt_succ_of_lt hk]
      · rw [if_neg hk, if_neg (by omega)]

end Sys2Proof.Machine
end

