-- ==== Sys2Proof/Laws/Construct.lean ====
section
/-! SUPPORT. Construction (spec/70_reset_and_hazards.md R200): the memory of a launch is canonical and reads as its
bytes, and what `construct` answers. -/

namespace Sys2Proof.Machine

/-- The bytes that differ from the default, listed by rising index, are canonical. -/
theorem Memory.wfFrom_filterMap (f : Nat → Byte) : ∀ m k, k + m ≤ 4096 →
    Memory.wfFrom k ((List.range' k m).filterMap fun a => if f a = memDefault a then none else some (a, f a)) = true := by
  intro m
  induction m with
  | zero => intro k _; rfl
  | succ m ih =>
    intro k hk
    rw [List.range'_succ, List.filterMap_cons]
    have := ih (k+1) (by omega)
    by_cases h : f k = memDefault k
    · simp only [h, if_true]
      exact Memory.wfFrom_mono _ (by omega) this
    · simp only [h, if_false, Memory.wfFrom, this]
      simp [Config.memSize, h]; omega

/-- … and read back as those bytes. -/
theorem Memory.read_filterMap (f : Nat → Byte) : ∀ m k j,
    Memory.read ((List.range' k m).filterMap fun a => if f a = memDefault a then none else some (a, f a)) j =
      if k ≤ j ∧ j < k + m then f j else memDefault j := by
  intro m
  induction m with
  | zero => intro k j; simp [Memory.read]
  | succ m ih =>
    intro k j
    rw [List.range'_succ, List.filterMap_cons]
    have := ih (k+1) j
    by_cases h : f k = memDefault k
    · simp only [h, if_true, this]
      by_cases hj : j = k
      · subst hj; simp [h]
      · have : (k + 1 ≤ j ∧ j < k + 1 + m) ↔ (k ≤ j ∧ j < k + (m+1)) := by omega
        simp only [this]
    · simp only [h, if_false, Memory.read, this]
      by_cases hj : k = j
      · subst hj; simp
      · have : (k + 1 ≤ j ∧ j < k + 1 + m) ↔ (k ≤ j ∧ j < k + (m+1)) := by omega
        simp only [this, hj, if_false]

/-- The memory of a launch reads at every index as R51 and R200 say. -/
theorem read_launchMemory (l : Launch) (j : Nat) (h : j < 4096) :
    Memory.read (launchMemory l) j = launchByte l.fontData l.memFill l.rom j := by
  unfold launchMemory
  rw [List.range_eq_range', Memory.read_filterMap (fun a => launchByte l.fontData l.memFill l.rom a)]
  simp [Config.memSize, h]

theorem wf_launchMemory (l : Launch) : Memory.wf (launchMemory l) = true := by
  unfold launchMemory Memory.wf
  rw [List.range_eq_range']
  exact Memory.wfFrom_filterMap (fun a => launchByte l.fontData l.memFill l.rom a) 4096 0 (by decide)

/-- What a construction that succeeds answers. -/
theorem construct_ok {l : Launch} {s : State} (h : construct l = .ok s) :
    l.rom.length ≤ 3584 ∧ s = { State.reset with memory := launchMemory l, cfg := l.cfg } := by
  unfold construct at h
  split at h
  · cases h
  · rename_i hl
    injection h with h
    exact ⟨Nat.le_of_not_lt hl, h.symm⟩

end Sys2Proof.Machine
end

