-- ==== Sys2Proof/Laws/Decode.lean ====
section
/-! SUPPORT. The fields of the words the formats of spec/30_encoding.md R72 build, and the words rebuilt from their
fields: the two halves of every round trip. -/

namespace Sys2Proof

theorem word_toNat_eq {a b : Word} (h : a.toNat = b.toNat) : a = b := BitVec.eq_of_toNat_eq h

theorem joinBytes_toNat (hi lo : Byte) : (joinBytes hi lo).toNat = hi.toNat * 256 + lo.toNat := by
  have := hi.isLt; have := lo.isLt
  simp only [joinBytes, BitVec.toNat_ofNat]; omega

theorem fieldG_toNat (op : Word) : (fieldG op).toNat = op.toNat / 4096 % 16 := by
  simp [fieldG, Nat.shiftRight_eq_div_pow]
theorem fieldX_toNat (op : Word) : (fieldX op).toNat = op.toNat / 256 % 16 := by
  simp [fieldX, Nat.shiftRight_eq_div_pow]
theorem fieldY_toNat (op : Word) : (fieldY op).toNat = op.toNat / 16 % 16 := by
  simp [fieldY, Nat.shiftRight_eq_div_pow]
theorem fieldN_toNat (op : Word) : (fieldN op).toNat = op.toNat % 16 := by
  simp [fieldN]
theorem fieldNN_toNat (op : Word) : (fieldNN op).toNat = op.toNat % 256 := by
  simp [fieldNN]
theorem fieldNNN_toNat (op : Word) : (fieldNNN op).toNat = op.toNat % 4096 := by
  simp [fieldNNN]
theorem topDigit_toNat (nnn : Addr12) : (topDigit nnn).toNat = nnn.toNat / 256 % 16 := by
  simp [topDigit, Nat.shiftRight_eq_div_pow]

theorem wordNNN_toNat (g : Nibble) (nnn : Addr12) : (wordNNN g nnn).toNat = g.toNat * 4096 + nnn.toNat := by
  have := g.isLt; have := nnn.isLt
  simp only [wordNNN, BitVec.toNat_ofNat]; omega
theorem wordXNN_toNat (g x : Nibble) (nn : Byte) :
    (wordXNN g x nn).toNat = g.toNat * 4096 + x.toNat * 256 + nn.toNat := by
  have := g.isLt; have := x.isLt; have := nn.isLt
  simp only [wordXNN, BitVec.toNat_ofNat]; omega
theorem wordXYN_toNat (g x y n : Nibble) :
    (wordXYN g x y n).toNat = g.toNat * 4096 + x.toNat * 256 + y.toNat * 16 + n.toNat := by
  have := g.isLt; have := x.isLt; have := y.isLt; have := n.isLt
  simp only [wordXYN, BitVec.toNat_ofNat]; omega

/-! The fields of format `NNN`. -/

@[simp] theorem fieldG_wordNNN (g : Nibble) (nnn : Addr12) : fieldG (wordNNN g nnn) = g := by
  have := g.isLt; have := nnn.isLt
  apply BitVec.eq_of_toNat_eq; rw [fieldG_toNat, wordNNN_toNat]; omega
@[simp] theorem fieldX_wordNNN (g : Nibble) (nnn : Addr12) : fieldX (wordNNN g nnn) = topDigit nnn := by
  have := g.isLt; have := nnn.isLt
  apply BitVec.eq_of_toNat_eq; rw [fieldX_toNat, wordNNN_toNat, topDigit_toNat]; omega
@[simp] theorem fieldNNN_wordNNN (g : Nibble) (nnn : Addr12) : fieldNNN (wordNNN g nnn) = nnn := by
  have := g.isLt; have := nnn.isLt
  apply BitVec.eq_of_toNat_eq; rw [fieldNNN_toNat, wordNNN_toNat]; omega

/-! The fields of formats `XNN` and `X`. -/

@[simp] theorem fieldG_wordXNN (g x : Nibble) (nn : Byte) : fieldG (wordXNN g x nn) = g := by
  have := g.isLt; have := x.isLt; have := nn.isLt
  apply BitVec.eq_of_toNat_eq; rw [fieldG_toNat, wordXNN_toNat]; omega
@[simp] theorem fieldX_wordXNN (g x : Nibble) (nn : Byte) : fieldX (wordXNN g x nn) = x := by
  have := g.isLt; have := x.isLt; have := nn.isLt
  apply BitVec.eq_of_toNat_eq; rw [fieldX_toNat, wordXNN_toNat]; omega
@[simp] theorem fieldNN_wordXNN (g x : Nibble) (nn : Byte) : fieldNN (wordXNN g x nn) = nn := by
  have := g.isLt; have := x.isLt; have := nn.isLt
  apply BitVec.eq_of_toNat_eq; rw [fieldNN_toNat, wordXNN_toNat]; omega

/-! The fields of formats `XY` and `XYN`. -/

@[simp] theorem fieldG_wordXYN (g x y n : Nibble) : fieldG (wordXYN g x y n) = g := by
  have := g.isLt; have := x.isLt; have := y.isLt; have := n.isLt
  apply BitVec.eq_of_toNat_eq; rw [fieldG_toNat, wordXYN_toNat]; omega
@[simp] theorem fieldX_wordXYN (g x y n : Nibble) : fieldX (wordXYN g x y n) = x := by
  have := g.isLt; have := x.isLt; have := y.isLt; have := n.isLt
  apply BitVec.eq_of_toNat_eq; rw [fieldX_toNat, wordXYN_toNat]; omega
@[simp] theorem fieldY_wordXYN (g x y n : Nibble) : fieldY (wordXYN g x y n) = y := by
  have := g.isLt; have := x.isLt; have := y.isLt; have := n.isLt
  apply BitVec.eq_of_toNat_eq; rw [fieldY_toNat, wordXYN_toNat]; omega
@[simp] theorem fieldN_wordXYN (g x y n : Nibble) : fieldN (wordXYN g x y n) = n := by
  have := g.isLt; have := x.isLt; have := y.isLt; have := n.isLt
  apply BitVec.eq_of_toNat_eq; rw [fieldN_toNat, wordXYN_toNat]; omega

theorem fieldNN_wordXYN (g x y n : Nibble) :
    fieldNN (wordXYN g x y n) = BitVec.ofNat 8 (y.toNat * 16 + n.toNat) := by
  have := g.isLt; have := x.isLt; have := y.isLt; have := n.isLt
  apply BitVec.eq_of_toNat_eq; rw [fieldNN_toNat, wordXYN_toNat, BitVec.toNat_ofNat]; omega

/-! Every word is rebuilt from its fields, in each format. -/

theorem wordNNN_fields (op : Word) : wordNNN (fieldG op) (fieldNNN op) = op := by
  have := op.isLt
  apply BitVec.eq_of_toNat_eq; rw [wordNNN_toNat, fieldG_toNat, fieldNNN_toNat]; omega
theorem wordXNN_fields (op : Word) : wordXNN (fieldG op) (fieldX op) (fieldNN op) = op := by
  have := op.isLt
  apply BitVec.eq_of_toNat_eq; rw [wordXNN_toNat, fieldG_toNat, fieldX_toNat, fieldNN_toNat]; omega
theorem wordXYN_fields (op : Word) : wordXYN (fieldG op) (fieldX op) (fieldY op) (fieldN op) = op := by
  have := op.isLt
  apply BitVec.eq_of_toNat_eq; rw [wordXYN_toNat, fieldG_toNat, fieldX_toNat, fieldY_toNat, fieldN_toNat]; omega
theorem topDigit_fieldNNN (op : Word) : topDigit (fieldNNN op) = fieldX op := by
  apply BitVec.eq_of_toNat_eq; rw [topDigit_toNat, fieldNNN_toNat, fieldX_toNat]; omega

/-- The stored bytes of a word give it back. -/
theorem joinBytes_wordBytes (op : Word) : joinBytes (op.extractLsb' 8 8) (op.extractLsb' 0 8) = op := by
  have := op.isLt
  apply BitVec.eq_of_toNat_eq
  rw [joinBytes_toNat]
  simp [Nat.shiftRight_eq_div_pow]
  omega

/-! The masks of the opcode map (R75, R76). -/

theorem nat_and_shifted (n m k : Nat) : n &&& m <<< k = (n >>> k &&& m) <<< k := by
  apply Nat.eq_of_testBit_eq
  intro i
  by_cases hi : k ≤ i <;> simp [Nat.testBit_shiftLeft, Nat.testBit_shiftRight, hi]

theorem nat_and_digit (n : Nat) : n &&& 15 * 4096 = n / 4096 % 16 * 4096 := by
  have h15 : n >>> 12 &&& 15 = n / 4096 % 16 := by
    rw [Nat.shiftRight_eq_div_pow]
    exact Nat.and_two_pow_sub_one_eq_mod _ 4
  have h := nat_and_shifted n 15 12
  rw [h15] at h
  simpa [Nat.shiftLeft_eq] using h

theorem nat_and_or_digit (n k : Nat) (hk : k ≤ 12) :
    n &&& (15 * 4096 + (2 ^ k - 1)) = n / 4096 % 16 * 4096 + n % 2 ^ k := by
  have hlt : 2 ^ k - 1 < 2 ^ 12 := by
    have := Nat.pow_le_pow_right (n := 2) (by decide) hk
    have := Nat.two_pow_pos k
    omega
  have hmod : n % 2 ^ k < 2 ^ 12 := lt_of_lt_of_le (Nat.mod_lt _ (Nat.two_pow_pos k)) (Nat.pow_le_pow_right (by decide) hk)
  have e1 : 15 * 4096 + (2 ^ k - 1) = 15 * 4096 ||| (2 ^ k - 1) := by
    simpa [Nat.shiftLeft_eq] using (Nat.shiftLeft_add_eq_or_of_lt hlt 15)
  have e2 : n / 4096 % 16 * 4096 + n % 2 ^ k = n / 4096 % 16 * 4096 ||| n % 2 ^ k := by
    simpa [Nat.shiftLeft_eq] using (Nat.shiftLeft_add_eq_or_of_lt hmod (n / 4096 % 16))
  rw [e1, e2, Nat.and_or_distrib_left, nat_and_digit, Nat.and_two_pow_sub_one_eq_mod]

/-- The mask 0xF000 keeps the group digit. -/
theorem and_F000 (op : Word) : op &&& 0xF000#16 = wordNNN (fieldG op) 0 := by
  apply BitVec.eq_of_toNat_eq
  rw [wordNNN_toNat, fieldG_toNat, BitVec.toNat_and]
  simpa using nat_and_digit op.toNat

/-- The mask 0xF00F keeps the group digit and the low digit. -/
theorem and_F00F (op : Word) : op &&& 0xF00F#16 = wordXYN (fieldG op) 0 0 (fieldN op) := by
  apply BitVec.eq_of_toNat_eq
  rw [wordXYN_toNat, fieldG_toNat, fieldN_toNat, BitVec.toNat_and]
  simpa using nat_and_or_digit op.toNat 4 (by decide)

/-- The mask 0xF0FF keeps the group digit and the low byte. -/
theorem and_F0FF (op : Word) : op &&& 0xF0FF#16 = wordXNN (fieldG op) 0 (fieldNN op) := by
  apply BitVec.eq_of_toNat_eq
  rw [wordXNN_toNat, fieldG_toNat, fieldNN_toNat, BitVec.toNat_and]
  simpa using nat_and_or_digit op.toNat 8 (by decide)

/-- The mask 0xFFFF keeps the word. -/
theorem and_FFFF (op : Word) : op &&& 0xFFFF#16 = op := by
  have : (0xFFFF#16) = BitVec.allOnes 16 := rfl
  rw [this, BitVec.and_allOnes]

end Sys2Proof
end

