-- ==== Sys2Proof/Laws/Display.lean ====
section
/-! SUPPORT. The display (spec/43_display.md R140 to R145): a cell read after a cell is written, and what drawing the
columns of a sprite row, its rows, and the whole sprite does to every cell and to the collision flag. -/

namespace Sys2Proof.Machine

@[simp] theorem Display.cell_setCell (d : Display) (cx cx' : Fin 64) (cy cy' : Fin 32) (p : Bool) :
    Display.cell (Display.setCell d cx cy p) cx' cy' =
      if cx' = cx ∧ cy' = cy then p else Display.cell d cx' cy' := by
  simp only [Display.cell, Display.setCell, Fin.getElem_fin, Vector.getElem_set, Fin.ext_iff]
  by_cases hy : cy.val = cy'.val
  · have : cy = cy' := Fin.ext hy
    subst this
    simp [Vector.getElem_set, eq_comm]
  · simp [hy, Ne.symm hy]

@[simp] theorem Display.cell_clear (cx : Fin 64) (cy : Fin 32) : Display.cell displayClear cx cy = false := by
  simp [Display.cell, displayClear]

/-- Two screens with the same cells are the same screen. -/
theorem Display.ext_cell {d e : Display} (h : ∀ cx cy, Display.cell d cx cy = Display.cell e cx cy) : d = e := by
  refine Vector.ext fun y hy => Vector.ext fun x hx => ?_
  exact h ⟨x, hx⟩ ⟨y, hy⟩

/-- The bit a sprite row `row`, drawn from column `sx` on, puts on column `cx` (R141). -/
def rowBit (clip : Bool) (sx : Nat) (row : Byte) (bs : List Nat) (cx : Fin 64) : Bool :=
  bs.any fun b => (!clip || decide (sx + b < Config.screenW)) && decide ((sx + b) % 64 = cx.val) && row.getLsbD (7 - b)

theorem rowBit_cons (clip : Bool) (sx : Nat) (row : Byte) (b : Nat) (bs : List Nat) (cx : Fin 64) :
    rowBit clip sx row (b :: bs) cx =
      ((!clip || decide (sx + b < Config.screenW)) && decide ((sx + b) % 64 = cx.val) && row.getLsbD (7 - b) ||
        rowBit clip sx row bs cx) := rfl

/-- Columns past the right edge put nothing on any column. -/
theorem rowBit_past {sx : Nat} {row : Byte} {bs : List Nat} (h : ∀ b ∈ bs, Config.screenW ≤ sx + b) (cx : Fin 64) :
    rowBit true sx row bs cx = false := by
  simp only [rowBit, List.any_eq_false]
  intro b hb
  have := h b hb
  simp [show ¬ sx + b < Config.screenW by omega]

/-- One sprite row XORs its bits into its screen row and leaves the others; the flag turns on where a cell that was
on meets a 1 bit. The columns rise by less than 64 in all, so that no two meet. -/
theorem drawColumns_spec (clip : Bool) (sx : Nat) (cy : Fin 32) (row : Byte) :
    ∀ (m k : Nat) (d : Canvas), m ≤ 8 →
      (∀ cx cy', Display.cell (drawColumns clip sx cy row (List.range' k m) d).1 cx cy' =
        (Display.cell d.1 cx cy' ^^ (decide (cy' = cy) && rowBit clip sx row (List.range' k m) cx))) ∧
      (drawColumns clip sx cy row (List.range' k m) d).2 =
        (d.2 || decide (∃ cx, Display.cell d.1 cx cy = true ∧ rowBit clip sx row (List.range' k m) cx = true)) := by
  intro m
  induction m with
  | zero => intro k d _; simp [drawColumns, rowBit]
  | succ m ih =>
    intro k d hm
    rw [List.range'_succ, drawColumns]
    by_cases hc : (clip && decide (sx + k ≥ Config.screenW)) = true
    · rw [if_pos hc]
      simp only [Bool.and_eq_true, decide_eq_true_eq] at hc
      obtain ⟨rfl, hc⟩ := hc
      have hz : ∀ cx, rowBit true sx row (k :: List.range' (k + 1) m) cx = false :=
        rowBit_past fun b hb => by
          rcases List.mem_cons.mp hb with rfl | hb
          · exact hc
          · rw [List.mem_range'_1] at hb; omega
      simp [hz]
    · rw [if_neg hc]
      have hlive : (!clip || decide (sx + k < Config.screenW)) = true := by
        cases clip <;> simp_all
      obtain ⟨h1, h2⟩ := ih (k + 1) (plotPixel (Fin.ofNat 64 (sx + k)) cy (row.getLsbD (7 - k)) d) (by omega)
      have hlater : ∀ cx : Fin 64, (sx + k) % 64 = cx.val → rowBit clip sx row (List.range' (k + 1) m) cx = false := by
        intro cx hcx
        simp only [rowBit, List.any_eq_false]
        intro b hb
        rw [List.mem_range'_1] at hb
        have : (sx + b) % 64 ≠ cx.val := by omega
        simp [this]
      have hval : (Fin.ofNat 64 (sx + k)).val = (sx + k) % 64 := rfl
      refine ⟨fun cx cy' => ?_, ?_⟩
      · rw [h1, rowBit_cons, hlive, plotPixel, Display.cell_setCell]
        by_cases hx : (sx + k) % 64 = cx.val
        · have hcx : cx = Fin.ofNat 64 (sx + k) := Fin.ext (by rw [hval, hx])
          rw [hlater cx hx]
          by_cases hy : cy' = cy <;> simp [hcx, hy]
        · have hcx : cx ≠ Fin.ofNat 64 (sx + k) := fun e => hx (by rw [e, hval])
          rw [if_neg fun h => hcx h.1]
          simp [hx]
      · rw [h2, plotPixel]
        simp only [Display.cell_setCell, rowBit_cons, hlive]
        rw [Bool.eq_iff_iff]
        simp only [Bool.or_eq_true, Bool.and_eq_true, decide_eq_true_eq, true_and, and_true]
        constructor
        · rintro ((h | ⟨h, h'⟩) | ⟨cx, h, h'⟩)
          · exact .inl h
          · exact .inr ⟨Fin.ofNat 64 (sx + k), h, .inl ⟨hval.symm, h'⟩⟩
          · have hcx : cx ≠ Fin.ofNat 64 (sx + k) := fun e => by
              rw [hlater cx (by rw [e, hval])] at h'; exact absurd h' (by decide)
            rw [if_neg hcx] at h
            exact .inr ⟨cx, h, .inr h'⟩
        · rintro (h | ⟨cx, h, ⟨hx, h'⟩ | h'⟩)
          · exact .inl (.inl h)
          · have hcx : cx = Fin.ofNat 64 (sx + k) := Fin.ext (by rw [hval, hx])
            exact .inl (.inr ⟨hcx ▸ h, h'⟩)
          · have hcx : cx ≠ Fin.ofNat 64 (sx + k) := fun e => by
              rw [hlater cx (by rw [e, hval])] at h'; exact absurd h' (by decide)
            exact .inr ⟨cx, by rw [if_neg hcx]; exact h, h'⟩

/-- One sprite row: the columns 0 to 7 (R141). -/
theorem drawRow_spec (clip : Bool) (sx : Nat) (cy : Fin 32) (row : Byte) (d : Canvas) :
    (∀ cx cy', Display.cell (drawColumns clip sx cy row (List.range 8) d).1 cx cy' =
      (Display.cell d.1 cx cy' ^^ (decide (cy' = cy) && rowBit clip sx row (List.range 8) cx))) ∧
    (drawColumns clip sx cy row (List.range 8) d).2 =
      (d.2 || decide (∃ cx, Display.cell d.1 cx cy = true ∧ rowBit clip sx row (List.range 8) cx = true)) := by
  rw [List.range_eq_range']
  exact drawColumns_spec clip sx cy row 8 0 d le_rfl

/-- The bit the rows `rs` of the sprite at `I` put on a cell (R141). -/
def State.rowsBit (s : State) (sx sy : Nat) (rs : List Nat) (cx : Fin 64) (cy : Fin 32) : Bool :=
  rs.any fun r => (!s.cfg.q.clipping || decide (sy + r < Config.screenH)) && decide ((sy + r) % 32 = cy.val) &&
    rowBit s.cfg.q.clipping sx (s.readMem (s.ea r)) (List.range 8) cx

/-- The rows of a sprite XOR their bits into the screen; the flag turns on where a cell that was on meets a 1 bit.
The rows rise by less than 32 in all, so that no two meet. -/
theorem State.drawRows_spec (s : State) (sx sy : Nat) :
    ∀ (m k : Nat) (d : Canvas), m ≤ 15 →
      (∀ cx cy, Display.cell (s.drawRows sx sy (List.range' k m) d).1 cx cy =
        (Display.cell d.1 cx cy ^^ s.rowsBit sx sy (List.range' k m) cx cy)) ∧
      (s.drawRows sx sy (List.range' k m) d).2 =
        (d.2 || decide (∃ cx cy, Display.cell d.1 cx cy = true ∧ s.rowsBit sx sy (List.range' k m) cx cy = true)) := by
  intro m
  induction m with
  | zero => intro k d _; simp [State.drawRows, State.rowsBit]
  | succ m ih =>
    intro k d hm
    rw [List.range'_succ, State.drawRows]
    by_cases hc : (s.cfg.q.clipping && decide (sy + k ≥ Config.screenH)) = true
    · rw [if_pos hc]
      simp only [Bool.and_eq_true, decide_eq_true_eq] at hc
      have hz : ∀ cx cy, s.rowsBit sx sy (k :: List.range' (k + 1) m) cx cy = false := by
        intro cx cy
        simp only [State.rowsBit, List.any_eq_false]
        intro r hr
        have hr' : Config.screenH ≤ sy + r := by
          rcases List.mem_cons.mp hr with rfl | hr
          · exact hc.2
          · rw [List.mem_range'_1] at hr
            have := hc.2
            omega
        simp [hc.1, show ¬ sy + r < Config.screenH by omega]
      simp [hz]
    · rw [if_neg hc]
      have hlive : (!s.cfg.q.clipping || decide (sy + k < Config.screenH)) = true := by
        cases hq : s.cfg.q.clipping <;> simp_all
      obtain ⟨r1, r2⟩ := drawRow_spec s.cfg.q.clipping sx (Fin.ofNat 32 (sy + k)) (s.readMem (s.ea k)) d
      obtain ⟨h1, h2⟩ := ih (k + 1) (drawColumns s.cfg.q.clipping sx (Fin.ofNat 32 (sy + k)) (s.readMem (s.ea k)) (List.range 8) d) (by omega)
      have hval : (Fin.ofNat 32 (sy + k)).val = (sy + k) % 32 := rfl
      have hcons : ∀ cx cy, s.rowsBit sx sy (k :: List.range' (k + 1) m) cx cy =
          (decide (cy = Fin.ofNat 32 (sy + k)) && rowBit s.cfg.q.clipping sx (s.readMem (s.ea k)) (List.range 8) cx ||
            s.rowsBit sx sy (List.range' (k + 1) m) cx cy) := by
        intro cx cy
        have hd : decide ((sy + k) % 32 = cy.val) = decide (cy = Fin.ofNat 32 (sy + k)) := by
          simp only [Fin.ext_iff, hval, eq_comm]
        show ((!s.cfg.q.clipping || decide (sy + k < Config.screenH)) && decide ((sy + k) % 32 = cy.val) && _ || _) = _
        rw [hlive, hd, Bool.true_and]
        rfl
      have hlater : ∀ cx, s.rowsBit sx sy (List.range' (k + 1) m) cx (Fin.ofNat 32 (sy + k)) = false := by
        intro cx
        simp only [State.rowsBit, List.any_eq_false]
        intro r hr
        rw [List.mem_range'_1] at hr
        have : (sy + r) % 32 ≠ (Fin.ofNat 32 (sy + k)).val := by rw [hval]; omega
        rw [decide_eq_false this]; simp
      refine ⟨fun cx cy => ?_, ?_⟩
      · rw [h1, r1, hcons]
        by_cases hy : cy = Fin.ofNat 32 (sy + k)
        · rw [hy, hlater]; simp
        · rw [decide_eq_false hy]; simp
      · rw [h2, r2]
        simp only [r1, hcons]
        rw [Bool.eq_iff_iff]
        simp only [Bool.or_eq_true, Bool.and_eq_true, decide_eq_true_eq]
        constructor
        · rintro ((h | ⟨cx, h, h'⟩) | ⟨cx, cy, h, h'⟩)
          · exact .inl h
          · exact .inr ⟨cx, _, h, .inl ⟨rfl, h'⟩⟩
          · have hcy : cy ≠ Fin.ofNat 32 (sy + k) := fun e => by rw [e, hlater] at h'; exact absurd h' (by decide)
            rw [decide_eq_false hcy] at h
            exact .inr ⟨cx, cy, by simpa using h, .inr h'⟩
        · rintro (h | ⟨cx, cy, h, ⟨rfl, h'⟩ | h'⟩)
          · exact .inl (.inl h)
          · exact .inl (.inr ⟨cx, h, h'⟩)
          · have hcy : cy ≠ Fin.ofNat 32 (sy + k) := fun e => by rw [e, hlater] at h'; exact absurd h' (by decide)
            exact .inr ⟨cx, cy, by rw [decide_eq_false hcy]; simpa using h, h'⟩

/-- What drawing a sprite does to every cell and to the collision flag. -/
theorem State.drawSprite_spec (s : State) (vx vy : Byte) (n : Nibble) :
    (∀ cx cy, Display.cell (s.drawSprite vx vy n).1 cx cy =
      (Display.cell s.fb cx cy ^^ s.rowsBit (vx.toNat % 64) (vy.toNat % 32) (List.range n.toNat) cx cy)) ∧
    (s.drawSprite vx vy n).2 =
      decide (∃ cx cy, Display.cell s.fb cx cy = true ∧
        s.rowsBit (vx.toNat % 64) (vy.toNat % 32) (List.range n.toNat) cx cy = true) := by
  have hn := n.isLt
  unfold State.drawSprite
  rw [List.range_eq_range']
  obtain ⟨h1, h2⟩ := s.drawRows_spec (vx.toNat % 64) (vy.toNat % 32) n.toNat 0 (s.fb, false) (by omega)
  exact ⟨h1, by simpa using h2⟩

end Sys2Proof.Machine
end

