-- ==== Sys2Proof/Laws/Flags.lean ====
section
/-! SUPPORT. What each flag computation and each operand form says in numbers (spec/10_state.md R21,
spec/41_load_and_alu.md R122, spec/30_encoding.md R73). -/

namespace Sys2Proof.Machine

@[simp] theorem flagByte_true : flagByte true = 1 := rfl
@[simp] theorem flagByte_false : flagByte false = 0 := rfl

theorem carryFlag_eq (a b : Byte) : carryFlag a b = if 255 < a.toNat + b.toNat then 1 else 0 := by
  simp [carryFlag, flagByte]

theorem noBorrowFlag_eq (a b : Byte) : noBorrowFlag a b = if b.toNat ≤ a.toNat then 1 else 0 := by
  simp [noBorrowFlag, flagByte]

theorem indexOverflowFlag_eq (i : Word) (b : Byte) :
    indexOverflowFlag i b = if 0xFFF < i.toNat + b.toNat then 1 else 0 := by
  simp [indexOverflowFlag, flagByte]

theorem shiftRightFlag_toNat (b : Byte) : (shiftRightFlag b).toNat = b.toNat % 2 := by
  revert b; decide

theorem shiftLeftFlag_toNat (b : Byte) : (shiftLeftFlag b).toNat = b.toNat / 128 := by
  revert b; decide

theorem zextAddr_toNat (nnn : Addr12) : (zextAddr nnn).toNat = nnn.toNat := by
  simp [zextAddr]; omega

theorem zextByte_toNat (b : Byte) : (zextByte b).toNat = b.toNat := by
  simp [zextByte]; omega

theorem State.shiftSource_eq (s : State) (x y : Nibble) :
    s.shiftSource x y = s.reg (if s.cfg.q.shifting then x else y) := by
  unfold State.shiftSource; split <;> rfl

end Sys2Proof.Machine
end

