-- ==== Sys2Proof/Laws/PerInstr.lean ====
section
/-! SUPPORT. The laws made per instruction (LAWS.json): the family `RoundTrip` says of an instruction that decoding
the word it encodes to gives it back (spec/30_encoding.md R71, R72, R76). -/

namespace Sys2Proof.Laws.RoundTrip

/-- A well-formed instruction is read back from its word. -/
def Statement (i : Instr) : Prop := i.wellFormed = true → decode (encode i) = some i

theorem cls : Statement (.cls) := by
  intro _; decide
theorem ret : Statement (.ret) := by
  intro _; decide
theorem jp (nnn : Addr12) : Statement (.jp nnn) := by
  intro _; simp [decode, encode]
theorem call (nnn : Addr12) : Statement (.call nnn) := by
  intro _; simp [decode, encode]
theorem seImm (x : Nibble) (nn : Byte) : Statement (.seImm x nn) := by
  intro _; simp [decode, encode]
theorem sneImm (x : Nibble) (nn : Byte) : Statement (.sneImm x nn) := by
  intro _; simp [decode, encode]
theorem seReg (x : Nibble) (y : Nibble) : Statement (.seReg x y) := by
  intro _; simp [decode, encode]
theorem ldImm (x : Nibble) (nn : Byte) : Statement (.ldImm x nn) := by
  intro _; simp [decode, encode]
theorem addImm (x : Nibble) (nn : Byte) : Statement (.addImm x nn) := by
  intro _; simp [decode, encode]
theorem ldReg (x : Nibble) (y : Nibble) : Statement (.ldReg x y) := by
  intro _; simp [decode, decodeGroup8, encode]
theorem or (x : Nibble) (y : Nibble) : Statement (.or x y) := by
  intro _; simp [decode, decodeGroup8, encode]
theorem and (x : Nibble) (y : Nibble) : Statement (.and x y) := by
  intro _; simp [decode, decodeGroup8, encode]
theorem xor (x : Nibble) (y : Nibble) : Statement (.xor x y) := by
  intro _; simp [decode, decodeGroup8, encode]
theorem addReg (x : Nibble) (y : Nibble) : Statement (.addReg x y) := by
  intro _; simp [decode, decodeGroup8, encode]
theorem sub (x : Nibble) (y : Nibble) : Statement (.sub x y) := by
  intro _; simp [decode, decodeGroup8, encode]
theorem shr (x : Nibble) (y : Nibble) : Statement (.shr x y) := by
  intro _; simp [decode, decodeGroup8, encode]
theorem subn (x : Nibble) (y : Nibble) : Statement (.subn x y) := by
  intro _; simp [decode, decodeGroup8, encode]
theorem shl (x : Nibble) (y : Nibble) : Statement (.shl x y) := by
  intro _; simp [decode, decodeGroup8, encode]
theorem sneReg (x : Nibble) (y : Nibble) : Statement (.sneReg x y) := by
  intro _; simp [decode, encode]
theorem ldI (nnn : Addr12) : Statement (.ldI nnn) := by
  intro _; simp [decode, encode]
theorem jpV0 (x : Nibble) (nnn : Addr12) : Statement (.jpV0 x nnn) := by
  intro h; simp_all [Instr.wellFormed, decode, encode]
theorem rnd (x : Nibble) (nn : Byte) : Statement (.rnd x nn) := by
  intro _; simp [decode, encode]
theorem drw (x : Nibble) (y : Nibble) (n : Nibble) : Statement (.drw x y n) := by
  intro _; simp [decode, encode]
theorem skp (x : Nibble) : Statement (.skp x) := by
  intro _; simp [decode, decodeGroupE, encode]
theorem sknp (x : Nibble) : Statement (.sknp x) := by
  intro _; simp [decode, decodeGroupE, encode]
theorem ldVxDt (x : Nibble) : Statement (.ldVxDt x) := by
  intro _; simp [decode, decodeGroupF, encode]
theorem ldVxK (x : Nibble) : Statement (.ldVxK x) := by
  intro _; simp [decode, decodeGroupF, encode]
theorem ldDtVx (x : Nibble) : Statement (.ldDtVx x) := by
  intro _; simp [decode, decodeGroupF, encode]
theorem ldStVx (x : Nibble) : Statement (.ldStVx x) := by
  intro _; simp [decode, decodeGroupF, encode]
theorem addI (x : Nibble) : Statement (.addI x) := by
  intro _; simp [decode, decodeGroupF, encode]
theorem ldF (x : Nibble) : Statement (.ldF x) := by
  intro _; simp [decode, decodeGroupF, encode]
theorem ldB (x : Nibble) : Statement (.ldB x) := by
  intro _; simp [decode, decodeGroupF, encode]
theorem storeRegs (x : Nibble) : Statement (.storeRegs x) := by
  intro _; simp [decode, decodeGroupF, encode]
theorem loadRegs (x : Nibble) : Statement (.loadRegs x) := by
  intro _; simp [decode, decodeGroupF, encode]

end Sys2Proof.Laws.RoundTrip
end

