-- ==== Sys2Proof/Laws/Step.lean ====
section
/-! SUPPORT. What a step can do, said once (spec/30_encoding.md R74), and the shared operations that branch: the key
skip, the scan of FX0A, and the bytes placed where a step fetches. -/

namespace Sys2Proof.Machine

/-- The three ways a step answers a next state. -/
theorem step_cases {s t : State} (h : step s = .next t) :
    ((∃ f, s.fault = some f) ∧ t = s) ∨
    (s.fault = none ∧ ∃ i, decode s.fetch = some i ∧ exec i (s.setPc (s.pc + 2)) = .next t) ∨
    (s.fault = none ∧ decode s.fetch = none ∧ t = (s.setPc (s.pc + 2)).raise (.unknownOpcode s.fetch)) := by
  unfold step stepCycle at h
  split at h
  · rename_i f hf
    injection h with h
    exact .inl ⟨⟨f, hf⟩, h.symm⟩
  · rename_i hf
    unfold State.dispatch at h
    split at h
    · rename_i i hi
      exact .inr (.inl ⟨hf, i, hi, h⟩)
    · rename_i hi
      injection h with h
      exact .inr (.inr ⟨hf, hi, h.symm⟩)

/-- The key skip: a fault out of range, a plain skip within. -/
theorem State.skipOnKey_cases (s : State) (x : Nibble) (p : Bool) :
    (16 ≤ (s.reg x).toNat ∧ s.skipOnKey x p = s.raise .registerOutOfRange) ∨
    ((s.reg x).toNat < 16 ∧
      s.skipOnKey x p = s.skipIf (Keys.pressed s.keys ((s.reg x).setWidth 4) == p)) := by
  unfold State.skipOnKey keyIndex
  by_cases h : (s.reg x).toNat < 16
  · exact .inr ⟨h, by simp [h]⟩
  · exact .inl ⟨by omega, by simp [h]⟩

theorem mem_scanOrder (k : Nibble) : k ∈ scanOrder := by
  revert k; decide

/-- The scan finds nothing exactly when no key is fresh. -/
theorem State.firstFresh_eq_none (s : State) : s.firstFresh = none ↔ ∀ k, s.fresh k = false := by
  simp only [State.firstFresh, List.find?_eq_none, Bool.not_eq_true]
  exact ⟨fun h k => h k (mem_scanOrder k), fun h k _ => h k⟩

theorem State.fresh_of_firstFresh {s : State} {k : Nibble} (h : s.firstFresh = some k) : s.fresh k = true :=
  List.find?_some h

theorem scanOrder_pairwise : List.Pairwise (fun a b : Nibble => a.toNat < b.toNat) scanOrder := by decide

theorem find?_least {p : Nibble → Bool} {k : Nibble} :
    ∀ l : List Nibble, List.Pairwise (fun a b => a.toNat < b.toNat) l → k ∈ l → p k = true →
      (∀ j, j.toNat < k.toNat → p j = false) → l.find? p = some k
  | [], _, hm, _, _ => by simp at hm
  | a :: l, hp, hm, hk, hl => by
    rw [List.pairwise_cons] at hp
    rcases List.mem_cons.mp hm with rfl | hm
    · simp [hk]
    · rw [List.find?_cons_of_neg (by simp [hl a (hp.1 k hm)])]
      exact find?_least l hp.2 hm hk hl

/-- The scan finds the fresh key of the lowest index. -/
theorem State.firstFresh_eq_some {s : State} {k : Nibble} (hk : s.fresh k = true)
    (hl : ∀ j : Nibble, j.toNat < k.toNat → s.fresh j = false) : s.firstFresh = some k :=
  find?_least scanOrder scanOrder_pairwise (mem_scanOrder k) hk hl

/-- The two bytes of a word stored at an address are read back as that word. -/
theorem State.readMem2_writeBytes (s : State) (a w : Word) :
    (s.writeBytes a (wordBytes w)).readMem2 a = w := by
  have hne : memIndex a ≠ memIndex (a + 1#16) := by
    simp only [memIndex, Config.memSize, BitVec.toNat_add, BitVec.toNat_ofNat]
    omega
  simp [State.readMem2, wordBytes, State.writeBytes, hne, joinBytes_wordBytes]

end Sys2Proof.Machine
end

