-- ==== Sys2Proof/Tests/Slice0.lean ====
section
/-! SUPPORT. Tests: the WellFormed smoke test; one word per instruction, written out from spec/30_encoding.md R76,
with what it decodes to; single steps whose expected results are the vectors of spec/95_test_vectors.md (named V…);
and a witness for the hypotheses of every obligation that has some. -/

namespace Sys2Proof.Tests

open Sys2Proof.Machine

/-! WellFormed: the one relation between fields, BNNN's (R71). -/

theorem test_illformed_jpV0_refused : (Instr.jpV0 0x1#4 0x234#12).wellFormed = false := by decide
theorem test_wellformed_jpV0_accepted : (Instr.jpV0 0x2#4 0x234#12).wellFormed = true := by decide

/-! Decoding: words written out from the patterns of R76. -/

theorem test_decode_cls : decode 0x00E0#16 = some .cls := by decide
theorem test_decode_ret : decode 0x00EE#16 = some .ret := by decide
theorem test_decode_jp : decode 0x1ABC#16 = some (.jp 0xABC#12) := by decide
theorem test_decode_call : decode 0x2ABC#16 = some (.call 0xABC#12) := by decide
theorem test_decode_seImm : decode 0x3A42#16 = some (.seImm 0xA#4 0x42#8) := by decide
theorem test_decode_sneImm : decode 0x4A42#16 = some (.sneImm 0xA#4 0x42#8) := by decide
theorem test_decode_seReg : decode 0x5120#16 = some (.seReg 0x1#4 0x2#4) := by decide
theorem test_decode_ldImm : decode 0x6F7E#16 = some (.ldImm 0xF#4 0x7E#8) := by decide
theorem test_decode_addImm : decode 0x7F01#16 = some (.addImm 0xF#4 0x01#8) := by decide
theorem test_decode_ldReg : decode 0x8120#16 = some (.ldReg 0x1#4 0x2#4) := by decide
theorem test_decode_or : decode 0x8121#16 = some (.or 0x1#4 0x2#4) := by decide
theorem test_decode_and : decode 0x8122#16 = some (.and 0x1#4 0x2#4) := by decide
theorem test_decode_xor : decode 0x8123#16 = some (.xor 0x1#4 0x2#4) := by decide
theorem test_decode_addReg : decode 0x8F24#16 = some (.addReg 0xF#4 0x2#4) := by decide
theorem test_decode_sub : decode 0x8125#16 = some (.sub 0x1#4 0x2#4) := by decide
theorem test_decode_shr : decode 0x8126#16 = some (.shr 0x1#4 0x2#4) := by decide
theorem test_decode_subn : decode 0x8127#16 = some (.subn 0x1#4 0x2#4) := by decide
theorem test_decode_shl : decode 0x8FFE#16 = some (.shl 0xF#4 0xF#4) := by decide
theorem test_decode_sneReg : decode 0x9120#16 = some (.sneReg 0x1#4 0x2#4) := by decide
theorem test_decode_ldI : decode 0xAFFE#16 = some (.ldI 0xFFE#12) := by decide
theorem test_decode_jpV0 : decode 0xB234#16 = some (.jpV0 0x2#4 0x234#12) := by decide
theorem test_decode_rnd : decode 0xC30F#16 = some (.rnd 0x3#4 0x0F#8) := by decide
theorem test_decode_drw : decode 0xD123#16 = some (.drw 0x1#4 0x2#4 0x3#4) := by decide
theorem test_decode_skp : decode 0xE29E#16 = some (.skp 0x2#4) := by decide
theorem test_decode_sknp : decode 0xE2A1#16 = some (.sknp 0x2#4) := by decide
theorem test_decode_ldVxDt : decode 0xF407#16 = some (.ldVxDt 0x4#4) := by decide
theorem test_decode_ldVxK : decode 0xF50A#16 = some (.ldVxK 0x5#4) := by decide
theorem test_decode_ldDtVx : decode 0xF315#16 = some (.ldDtVx 0x3#4) := by decide
theorem test_decode_ldStVx : decode 0xF018#16 = some (.ldStVx 0x0#4) := by decide
theorem test_decode_addI : decode 0xFF1E#16 = some (.addI 0xF#4) := by decide
theorem test_decode_ldF : decode 0xF029#16 = some (.ldF 0x0#4) := by decide
theorem test_decode_ldB : decode 0xF033#16 = some (.ldB 0x0#4) := by decide
theorem test_decode_storeRegs : decode 0xF355#16 = some (.storeRegs 0x3#4) := by decide
theorem test_decode_loadRegs : decode 0xFF65#16 = some (.loadRegs 0xF#4) := by decide

/-- V30-1 to V30-8: an illegal word of every group that has some. -/
theorem test_decode_illegal : decode 0x0000#16 = none ∧ decode 0x00E1#16 = none ∧ decode 0x0123#16 = none ∧
    decode 0x5001#16 = none ∧ decode 0x9ABF#16 = none ∧ decode 0x8008#16 = none ∧ decode 0x812F#16 = none ∧
    decode 0xE09F#16 = none ∧ decode 0xF130#16 = none ∧ decode 0xFF75#16 = none := by
  refine ⟨?_, ?_, ?_, ?_, ?_, ?_, ?_, ?_, ?_, ?_⟩ <;> decide

/-- The bytes of an instruction lie high byte first (R54, R70). -/
theorem test_decode_bytes : decodeBytes [0xD1#8, 0x23#8, 0x77#8] = .ok (.drw 0x1#4 0x2#4 0x3#4, [0x77#8]) := by rfl
theorem test_decode_truncated : decodeBytes [0xD1#8] = .error .truncated := by rfl
theorem test_decode_table_word : decodeTableWord 16 0xF365 = some (.loadRegs 0x3#4) := by decide
theorem test_encode_drw : encode (.drw 0x1#4 0x2#4 0x3#4) = 0xD123#16 := by decide

/-! Single steps: `next? s f` is `f` of the next state. -/

def next? {α : Type} (s : State) (f : State → α) : Option α :=
  match step s with
  | .next t => some (f t)
  | .fault _ => none
  | .refused _ => none

/-- `s` with the word `w` at its `pc`. -/
def prog (w : Nat) (s : State) : State := s.withFetchWord 16 w

/-- The state after construction with two registers written. -/
def two (i : Nibble) (a : Byte) (j : Nibble) (b : Byte) : State := (State.reset.setReg i a).setReg j b

/-- The state with one quirk of `Q` changed. -/
def withQ (q : Quirks) (s : State) : State := { s with cfg := { s.cfg with q := q } }

theorem test_ret_V40_1 : next? (prog 0x00EE ((State.reset.setPc 0x020E).push 0x0206)) (fun t => (t.pc, t.stack)) =
    some (0x0206#16, []) := by decide
theorem test_ret_V40_2 : next? (prog 0x00EE (State.reset.setPc 0x0300)) (fun t => (t.pc, t.stack, t.fault)) =
    some (0x0302#16, [], some .stackUnderflow) := by decide
theorem test_jp_V40_3 : next? (prog 0x1ABC State.reset) State.pc = some 0x0ABC#16 := by decide
theorem test_jp_V40_5 : next? (prog 0x1201 State.reset) State.pc = some 0x0201#16 := by decide
theorem test_call_V40_6 : next? (prog 0x2ABC (State.reset.setPc 0x0FFE)) (fun t => (t.pc, t.stack)) =
    some (0x0ABC#16, [0x1000#16]) := by decide
theorem test_call_V40_7 : next? (prog 0x2ABC (State.reset.setPc 0xFFFE)) (fun t => (t.pc, t.stack)) =
    some (0x0ABC#16, [0x0000#16]) := by decide
theorem test_seImm_V40_8 : next? (prog 0x3A42 (State.reset.setReg 0xA 0x42)) State.pc = some 0x0204#16 := by decide
theorem test_seImm_V40_10 : next? (prog 0x3000 (State.reset.setPc 0xFFFE)) State.pc = some 0x0002#16 := by decide
theorem test_sneImm_V40_11 : next? (prog 0x4A42 (State.reset.setReg 0xA 0x42)) State.pc = some 0x0202#16 := by decide
theorem test_sneImm_V40_12 : next? (prog 0x4A42 (State.reset.setReg 0xA 0x43)) State.pc = some 0x0204#16 := by decide
theorem test_seReg_V40_13 : next? (prog 0x5120 (two 1 7 2 7)) State.pc = some 0x0204#16 := by decide
theorem test_seReg_V40_14 : next? (prog 0x5120 (two 1 7 2 8)) State.pc = some 0x0202#16 := by decide
theorem test_sneReg_V40_16 : next? (prog 0x9120 (two 1 7 2 8)) State.pc = some 0x0204#16 := by decide
theorem test_sneReg_V40_17 : next? (prog 0x9330 (State.reset.setReg 3 9)) State.pc = some 0x0202#16 := by decide
theorem test_jpV0_V40_18 : next? (prog 0xBFFF (State.reset.setReg 0 0xFF)) State.pc = some 0x10FE#16 := by decide
theorem test_jpV0_V40_20 : next? (prog 0xB234 (withQ { quirksBase with jumping := true } (two 0 0x01 2 0x10))) State.pc =
    some 0x0244#16 := by decide

theorem test_ldImm_V41_1 : next? (prog 0x6F7F State.reset) (fun t => (t.reg 0xF, t.pc)) = some (0x7F#8, 0x0202#16) := by
  decide
theorem test_addImm_V41_2 : next? (prog 0x7001 (two 0 0xFF 0xF 0x55)) (fun t => (t.reg 0, t.reg 0xF)) =
    some (0x00#8, 0x55#8) := by decide
theorem test_ldReg_V41_4 : next? (prog 0x8120 (two 1 0x01 2 0xAB)) (fun t => (t.reg 1, t.reg 2)) =
    some (0xAB#8, 0xAB#8) := by decide
theorem test_or_V41_5 : next? (prog 0x8121 ((two 1 0x50 2 0x05).setReg 0xF 9)) (fun t => (t.reg 1, t.reg 0xF)) =
    some (0x55#8, 0x09#8) := by decide
theorem test_or_V41_6 : next? (prog 0x8121 (withQ { quirksBase with vfReset := true } ((two 1 0x50 2 0x05).setReg 0xF 9)))
    (fun t => (t.reg 1, t.reg 0xF)) = some (0x55#8, 0x00#8) := by decide
theorem test_and_V41_7 : next? (prog 0x8122 ((two 1 0x5C 2 0x36).setReg 0xF 9)) (fun t => (t.reg 1, t.reg 0xF)) =
    some (0x14#8, 0x09#8) := by decide
theorem test_xor_V41_8 : next? (prog 0x8123 ((two 1 0x5C 2 0x36).setReg 0xF 9)) (fun t => (t.reg 1, t.reg 0xF)) =
    some (0x6A#8, 0x09#8) := by decide
theorem test_xor_V41_9 : next? (prog 0x8113 (State.reset.setReg 1 0x5C)) (fun t => t.reg 1) = some 0x00#8 := by decide
theorem test_addReg_V41_11 : next? (prog 0x81F4 (two 1 250 0xF 10)) (fun t => (t.reg 1, t.reg 0xF)) =
    some (0x04#8, 0x01#8) := by decide
theorem test_addReg_V41_12 : next? (prog 0x8F24 (two 0xF 250 2 10)) (fun t => t.reg 0xF) = some 0x04#8 := by decide
theorem test_addReg_V41_14 : next? (prog 0x8124 ((two 1 0x7F 2 0x80).setReg 0xF 1)) (fun t => (t.reg 1, t.reg 0xF)) =
    some (0xFF#8, 0x00#8) := by decide
theorem test_sub_V41_16 : next? (prog 0x8125 (two 1 10 2 10)) (fun t => (t.reg 1, t.reg 0xF)) = some (0x00#8, 0x01#8) := by
  decide
theorem test_sub_V41_17 : next? (prog 0x8125 (two 1 5 2 10)) (fun t => (t.reg 1, t.reg 0xF)) = some (251#8, 0x00#8) := by
  decide
theorem test_shr_V41_20 : next? (prog 0x8126 (two 1 0xEE 2 0x05)) (fun t => (t.reg 1, t.reg 0xF, t.reg 2)) =
    some (0x02#8, 0x01#8, 0x05#8) := by decide
theorem test_shr_V41_22 : next? (prog 0x8126 (withQ { quirksBase with shifting := true } (two 1 0x03 2 0x80)))
    (fun t => (t.reg 1, t.reg 0xF, t.reg 2)) = some (0x01#8, 0x01#8, 0x80#8) := by decide
theorem test_subn_V41_24 : next? (prog 0x8127 (two 1 10 2 5)) (fun t => (t.reg 1, t.reg 0xF)) = some (0xFB#8, 0x00#8) := by
  decide
theorem test_subn_V41_26 : next? (prog 0x8127 (two 1 7 2 7)) (fun t => (t.reg 1, t.reg 0xF)) = some (0x00#8, 0x01#8) := by
  decide
theorem test_shl_V41_27 : next? (prog 0x812E (two 1 0x00 2 0x81)) (fun t => (t.reg 1, t.reg 0xF, t.reg 2)) =
    some (0x02#8, 0x01#8, 0x81#8) := by decide
theorem test_shl_V41_29 : next? (prog 0x812E (withQ { quirksBase with shifting := true } (two 1 0xC0 2 0x01)))
    (fun t => (t.reg 1, t.reg 0xF)) = some (0x80#8, 0x01#8) := by decide
/-- V41-31: a zero mask gives 0 whatever the byte is, and one byte is consumed. -/
theorem test_rnd_V41_31 : ∃ t, step (prog 0xC300 (State.reset.setReg 3 0x11)) = .next t ∧ t.reg 3 = 0x00#8 ∧
    t.rndCount = 1 ∧ t.pc = 0x0202#16 := by
  refine ⟨_, rfl, ?_, rfl, rfl⟩
  exact BitVec.and_zero

theorem test_ldI_V42_1 : next? (prog 0xAFFF (State.reset.setIndex 0xFFFF)) State.index = some 0x0FFF#16 := by decide
theorem test_addI_V42_3 : next? (prog 0xFF1E ((State.reset.setReg 0xF 0x10).setIndex 0x0FF0#16)) (fun t => (t.index, t.reg 0xF)) =
    some (0x1000#16, 0x01#8) := by decide
theorem test_addI_V42_4 : next? (prog 0xF11E ((State.reset.setReg 1 1).setIndex 0xFFFF)) (fun t => (t.index, t.reg 0xF)) =
    some (0x0000#16, 0x01#8) := by decide
theorem test_ldF_V42_6 : next? (prog 0xF029 (State.reset.setReg 0 0x0A)) State.index = some 0x005A#16 := by decide
theorem test_ldF_V42_6b : next? (prog 0xF029 { State.reset.setReg 0 0xFF with cfg := { defaultConfig with fontStride := 5 } })
    State.index = some 0x054B#16 := by decide
theorem test_ldB_V42_7 : next? (prog 0xF033 ((State.reset.setReg 0 156).setIndex 0x0300))
    (fun t => (t.readMem 0x300, t.readMem 0x301, t.readMem 0x302, t.index)) = some (1#8, 5#8, 6#8, 0x0300#16) := by decide
theorem test_ldB_V42_8 : next? (prog 0xF033 ((State.reset.setReg 0 255).setIndex 0x0FFF))
    (fun t => (t.readMem 0xFFF, t.readMem 0x000, t.readMem 0x001)) = some (2#8, 5#8, 5#8) := by decide
theorem test_storeRegs_V42_10 : next? (prog 0xF355 (((((two 0 1 1 2).setReg 2 3).setReg 3 4).setReg 4 0x99).setIndex 0x0400))
    (fun t => ((List.range 6).map (fun j => t.readMem (0x400 + BitVec.ofNat 16 j)), t.index)) =
    some ([1#8, 2#8, 3#8, 4#8, 0#8, 0#8], 0x0404#16) := by decide
theorem test_storeRegs_V42_13 : next? (prog 0xF155 ((two 0 0xAB 1 0xCD).setIndex 0x0FFF))
    (fun t => (t.readMem 0xFFF, t.readMem 0x000, t.index)) = some (0xAB#8, 0xCD#8, 0x1001#16) := by decide
theorem test_loadRegs_V42_11 : next? (prog 0xF365 (((two 4 0x77 5 0x66).setIndex 0x0400).writeBytes 0x0400 [1, 2, 3, 4, 5]))
    (fun t => (t.v.toList.take 6, t.index)) = some ([1#8, 2#8, 3#8, 4#8, 0x77#8, 0x66#8], 0x0404#16) := by decide
theorem test_loadRegs_V42_14 : next? (prog 0xFF65 (State.reset.setIndex 0x0050)) (fun t => (t.v.toList, t.index)) =
    some ([0xF0#8, 0x90#8, 0x90#8, 0x90#8, 0xF0#8, 0x20#8, 0x60#8, 0x20#8, 0x20#8, 0x70#8, 0xF0#8, 0x10#8, 0xF0#8,
      0x80#8, 0xF0#8, 0xF0#8], 0x0060#16) := by decide

/-- The columns of one screen row that are on. -/
def rowOn (t : State) (cy : Fin 32) : List (Fin 64) := (List.finRange 64).filter fun cx => Display.cell t.fb cx cy

/-- `State.reset` with two registers, `I = 0x300`, sprite bytes there, and some cells on. -/
def sprite (a b : Byte) (bytes : List Byte) (on : List (Fin 64 × Fin 32)) : State :=
  let s := ((two 0 a 1 b).setIndex 0x0300).writeBytes 0x0300 bytes
  s.setFb (on.foldl (fun d c => Display.setCell d c.1 c.2 true) s.fb)

theorem test_cls_V43_9 : next? (prog 0x00E0 ((sprite 0 0 [] [(0, 0), (63, 31)]).setReg 0xF 1))
    (fun t => (rowOn t 0, rowOn t 31, t.reg 0xF)) = some ([], [], 0x01#8) := by decide
/-- V43-1, V43-2, V43-3, V43-4, V43-7: clipping at the right and at the bottom, the start reduced, a collision, and the
coordinates read before `VF` is written. -/
theorem test_drw_base :
    next? (prog 0xD011 (sprite 60 0 [0xFF] [])) (fun t => (rowOn t 0, rowOn t 1, t.reg 0xF)) =
      some ([60, 61, 62, 63], [], 0x00#8) ∧
    next? (prog 0xD012 (sprite 0 31 [0x80, 0x80] [])) (fun t => (rowOn t 31, rowOn t 0)) = some ([0], []) ∧
    next? (prog 0xD011 (sprite 126 62 [0xC0] [])) (fun t => rowOn t 30) = some [62, 63] ∧
    next? (prog 0xD011 (sprite 4 2 [0xA0] [(4, 2), (5, 2)])) (fun t => (rowOn t 2, t.reg 0xF)) = some ([5, 6], 0x01#8) ∧
    next? (prog 0xDFF1 ((sprite 0 0 [0x80] []).setReg 0xF 0x41)) (fun t => (rowOn t 1, t.reg 0xF)) = some ([1], 0x00#8) := by
  refine ⟨?_, ?_, ?_, ?_, ?_⟩ <;> decide

/-- The `Q.DisplayWait` machine about to draw, with the draw latch as given. -/
def waiting (latch : Bool) : State :=
  prog 0xD011 (withQ { quirksBase with displayWait := true } { sprite 0 0 [0x80] [] with drawLatch := latch })

/-- V43-1q, V43-11, V43-12: the two quirks of DXYN. -/
theorem test_drw_quirks :
    next? (prog 0xD011 (withQ { quirksBase with clipping := false } (sprite 60 0 [0xFF] []))) (fun t => (rowOn t 0, t.reg 0xF)) =
      some ([0, 1, 2, 3, 60, 61, 62, 63], 0x00#8) ∧
    next? (waiting true) (fun t => (rowOn t 0, t.pc, t.drawLatch)) = some ([], 0x0200#16, true) ∧
    next? (waiting false) (fun t => (rowOn t 0, t.pc, t.drawLatch)) = some ([0], 0x0202#16, true) := by
  refine ⟨?_, ?_, ?_⟩ <;> decide

/-- `V2` and one key state, at 0x0220. -/
def keyAt (v2 : Byte) (k : Nibble) (p : Bool) : State := ((State.reset.setReg 2 v2).setPc 0x0220).setKey k p

theorem test_skp_V44_1 : next? (prog 0xE29E (keyAt 5 5 true)) State.pc = some 0x0224#16 := by decide
theorem test_skp_V44_5 : next? (prog 0xE29E (keyAt 0x10 0 true)) (fun t => (t.pc, t.fault)) =
    some (0x0222#16, some .registerOutOfRange) := by decide
theorem test_sknp_V44_4 : next? (prog 0xE2A1 (keyAt 5 5 true)) State.pc = some 0x0222#16 := by decide
theorem test_sknp_V44_6 : next? (prog 0xE2A1 (keyAt 0xFF 0 false)) (fun t => (t.pc, t.fault)) =
    some (0x0222#16, some .registerOutOfRange) := by decide

/-- A machine in the middle of the wait of 0xF50A at 0x0200. -/
def inWait (kw : KeyWait) (entry now : List Nibble) (captured : Nibble) : State :=
  let ks := fun l : List Nibble => l.foldl (fun (v : Keys) k => v.set k.toNat true k.isLt) keysReleased
  prog 0xF50A { State.reset with kw := kw, keysOnEntry := ks entry, keys := ks now, capturedKey := captured }

/-- V44-9, step 2: of two fresh keys the scan captures the lower. V44-8: a key held when the wait began is not fresh. -/
theorem test_ldVxK_press : next? (inWait .waitingForPress [] [9, 2] 0) (fun t => (t.kw, t.capturedKey, t.pc)) =
      some (.waitingForRelease, 0x2#4, 0x0200#16) ∧
    next? (inWait .waitingForPress [3] [3] 0) (fun t => (t.kw, t.pc)) = some (.waitingForPress, 0x0200#16) := by decide
theorem test_ldVxK_V44_7 : next? (inWait .waitingForRelease [] [] 3) (fun t => (t.reg 5, t.kw, t.pc)) =
    some (0x03#8, .idle, 0x0202#16) := by decide

theorem test_ldVxDt_V45_1 : next? (prog 0xF407 (State.reset.setDt 5)) (fun t => (t.reg 4, t.dt)) = some (5#8, 5#8) := by
  decide
theorem test_ldDtVx_V45_2 : next? (prog 0xF315 ((State.reset.setReg 3 7).setDt 200)) State.dt = some 7#8 := by decide
theorem test_ldStVx_V45_3 : next? (prog 0xF018 (State.reset.setReg 0 0x1E)) State.st = some 30#8 := by decide
theorem test_tick_V45_4 : (((State.reset.setDt 1).setSt 255).timersTick.dt, ((State.reset.setDt 1).setSt 255).timersTick.st) =
    (0#8, 254#8) := by decide
theorem test_tick_V45_5 : (State.reset.timersTick.dt, State.reset.timersTick.st) = (0#8, 0#8) := by decide
theorem test_tick_V45_7 : (State.reset.setDrawLatch true).timersTick.drawLatch = false := by decide
theorem test_setKey_V44_12 : Keys.pressed (State.reset.setKey 7 true).keys 7 = true := by decide

/-- V70-3, V30-1: the empty memory at 0x200 is an illegal word. -/
theorem test_unknown_V70_3 : next? State.reset (fun t => (t.fault, t.pc)) =
    some (some (.unknownOpcode 0x0000#16), 0x0202#16) := by decide
/-- V60-2. -/
theorem test_overflow_V60_2 :
    next? (prog 0x2300 { State.reset with stack := [0x0210, 0x0206], cfg := { defaultConfig with stackDepth := some 2 } })
      (fun t => (t.fault, t.pc, t.stack)) = some (some .stackOverflow, 0x0202#16, [0x0210#16, 0x0206#16]) := by decide
/-- V60-1, second step: nothing changes. -/
theorem test_halted_V60_1 : step (State.reset.raise .stackUnderflow) = .next (State.reset.raise .stackUnderflow) := by rfl
/-- D12: the numeric codes. -/
theorem test_fault_codes : [none, some (.unknownOpcode 7#16), some .stackUnderflow, some .registerOutOfRange,
    some .stackOverflow].map faultCode = [0, 1, 2, 3, 4] := by decide

/-! Witnesses: for each obligation with hypotheses, a state and operands that meet all of them, at the boundary of
each clause. The obligation's name follows `witness_`. -/

theorem witness_DecodeOfEncode : (Instr.jpV0 0xF#4 0xFFF#12).wellFormed = true := by decide
theorem witness_EncodeOfDecode : decode 0xFF65#16 = some (.loadRegs 0xF#4) := by decide
theorem witness_DecodeFollowsTheOpcodeMap : decode 0x8FFE#16 = some (.shl 0xF#4 0xF#4) ∧
    0x8FFE#16 &&& opcodeMap[(17 : Fin 34)].mask = opcodeMap[(17 : Fin 34)].pattern := by decide
theorem witness_StepRunsTheDecodedInstruction :
    (prog 0x1ABC State.reset).Running ∧
      decode (joinBytes ((prog 0x1ABC State.reset).readMem (prog 0x1ABC State.reset).pc)
        ((prog 0x1ABC State.reset).readMem ((prog 0x1ABC State.reset).pc + 1))) = some (.jp 0xABC#12) := by decide
theorem witness_UnknownOpcodeIsLatched : State.reset.Running ∧ decode State.reset.fetch = none := by decide
theorem witness_HaltedMachineStaysHalted : ∃ t, (State.reset.raise .stackUnderflow).fault = some .stackUnderflow ∧
    applyEvent .timersTick (State.reset.raise .stackUnderflow) = .next t := ⟨_, rfl, rfl⟩
theorem witness_FatalErrorsArePrecise : ∃ t, State.reset.Running ∧ step State.reset = .next t ∧ ¬ t.Running :=
  ⟨_, rfl, rfl, by decide⟩

/-- A machine with a `STACK_DEPTH` of 2 about to run 2ABC on `stack`. -/
def callOn (stack : List Word) : State :=
  prog 0x2ABC { State.reset with stack := stack, cfg := { defaultConfig with stackDepth := some 2 } }

/-- Each of the four causes, and a step that latches none. -/
theorem witness_FatalErrorCauses :
    (∃ t, State.reset.Running ∧ step State.reset = .next t ∧ t.fault = some (.unknownOpcode 0x0000#16)) ∧
    (∃ t, (prog 0x00EE State.reset).Running ∧ step (prog 0x00EE State.reset) = .next t ∧ t.fault = some .stackUnderflow) ∧
    (∃ t, (prog 0xE29E (keyAt 16 0 true)).Running ∧ step (prog 0xE29E (keyAt 16 0 true)) = .next t ∧
      t.fault = some .registerOutOfRange) ∧
    (∃ t, (prog 0xE2A1 (keyAt 15 15 true)).Running ∧ step (prog 0xE2A1 (keyAt 15 15 true)) = .next t ∧ t.fault = none) ∧
    (∃ t, (callOn [1, 2]).Running ∧ step (callOn [1, 2]) = .next t ∧ t.fault = some .stackOverflow) ∧
    (∃ t, (callOn [1]).Running ∧ step (callOn [1]) = .next t ∧ t.fault = none) :=
  ⟨⟨_, rfl, rfl, by decide⟩, ⟨_, rfl, rfl, by decide⟩, ⟨_, rfl, rfl, by decide⟩, ⟨_, rfl, rfl, by decide⟩,
    ⟨_, rfl, rfl, by decide⟩, ⟨_, rfl, rfl, by decide⟩⟩

theorem witness_MemoryStaysCanonical : ∃ t, (prog 0xF355 State.reset).MemoryCanonical ∧
    applyEvent .step (prog 0xF355 State.reset) = .next t :=
  ⟨_, by unfold State.MemoryCanonical; decide, rfl⟩

/-- Each clause, at a wait for a press and at a wait for a release. -/
theorem witness_KeyWaitInvariantsAreKept :
    (∃ t, (inWait .waitingForPress [] [2] 0).WaitsAtFX0A ∧ (inWait .waitingForPress [] [2] 0).kw ≠ .idle ∧
      applyEvent .step (inWait .waitingForPress [] [2] 0) = .next t) ∧
    (∃ t, (inWait .waitingForRelease [] [2] 2).CapturedWasReleased ∧ (inWait .waitingForRelease [] [2] 2).WaitsAtFX0A ∧
      (inWait .waitingForRelease [] [2] 2).kw ≠ .idle ∧ applyEvent .step (inWait .waitingForRelease [] [2] 2) = .next t) :=
  ⟨⟨_, fun _ _ => ⟨0x5#4, by decide⟩, by decide, rfl⟩,
    ⟨_, fun _ => by decide, fun _ _ => ⟨0x5#4, by decide⟩, by decide, rfl⟩⟩

theorem witness_StackStaysWithinDepth : ∃ t, (callOn [1, 2]).StackWithinDepth ∧
    applyEvent .step (callOn [1, 2]) = .next t :=
  ⟨_, fun d hd => by injection hd with hd; subst hd; decide, rfl⟩

/-- A launch with a two-byte ROM and a finite stack. -/
def smallLaunch : Launch := { defaultLaunch with rom := [0x12, 0x00], cfg := { defaultConfig with stackDepth := some 0 } }

theorem witness_InvariantsHoldOnEveryRun : ∃ s t, construct smallLaunch = .ok s ∧
    runEvents [.timersTick, .setKey 3 true] s = .next t := ⟨_, _, rfl, rfl⟩
theorem witness_ConstructionLoadsTheRom : ∃ s, construct smallLaunch = .ok s ∧ 1 < smallLaunch.rom.length := ⟨_, rfl, by decide⟩
theorem witness_OversizedRomIsRejected : 3584 < (List.replicate 3585 (0 : Byte)).length ∧
    (List.replicate 3584 (0 : Byte)).length ≤ 3584 := by
  simp only [List.length_replicate]; omega

theorem witness_ConfigurationAndKeysAreNotWritten : ∃ t u, applyEvent (.setKey 0xF true) State.reset = .next t ∧
    step t = .next u := ⟨_, _, rfl, rfl⟩
theorem witness_OnlyStoresChangeMemory : ∃ t, exec (.loadRegs 0xF#4) State.reset = .next t := ⟨_, rfl⟩
theorem witness_OnlyNamedRegistersChange : ∃ t, exec (.loadRegs 0xE#4) State.reset = .next t ∧
    writesReg State.reset.cfg.q (.loadRegs 0xE#4) 0xF#4 = false ∧
    writesReg { quirksBase with vfReset := true } (.or 0x1#4 0x2#4) 0xF#4 = true := ⟨_, rfl, by decide, by decide⟩
theorem witness_OnlyNamedInstructionsChangeSpecialState : ∃ t, exec (.rnd 0xF#4 0#8) State.reset = .next t := ⟨_, rfl⟩

/-- The hypotheses of `PcAfterAStep` for an instruction of each case, with what R24 gives. -/
theorem witness_PcAfterAStep :
    (State.Running (prog 0x00EE State.reset) ∧ decode (prog 0x00EE State.reset).fetch = some .ret ∧
      next? (prog 0x00EE State.reset) State.pc = some 0x0202#16) ∧
    (State.Running (callOn [1, 2]) ∧ decode (callOn [1, 2]).fetch = some (.call 0xABC#12) ∧
      next? (callOn [1, 2]) State.pc = some 0x0202#16) ∧
    (State.Running (prog 0xE29E (keyAt 15 15 true)) ∧ next? (prog 0xE29E (keyAt 15 15 true)) State.pc = some 0x0224#16) ∧
    (State.Running (prog 0xE2A1 (keyAt 15 15 true)) ∧ next? (prog 0xE2A1 (keyAt 15 15 true)) State.pc = some 0x0222#16) ∧
    (State.Running (waiting true) ∧ decode (waiting true).fetch = some (.drw 0x0#4 0x1#4 0x1#4)) ∧
    (State.Running (inWait .waitingForRelease [] [3] 3) ∧
      next? (inWait .waitingForRelease [] [3] 3) State.pc = some 0x0200#16) := by
  refine ⟨?_, ?_, ?_, ?_, ?_, ?_⟩ <;> decide

theorem witness_DepthAfterAnInstruction : ∃ t u, (callOn [1]).Running ∧ exec (.call 0xABC#12) (callOn [1]) = .next t ∧
    (State.reset.push 7).Running ∧ exec .ret (State.reset.push 7) = .next u := ⟨_, _, rfl, rfl, rfl, rfl⟩
theorem witness_ReturnPopsThePc : (State.reset.push 7).stack = 7 :: [] ∧ State.reset.stack = [] := by decide
theorem witness_CallPushesThePc : State.reset.cfg.stackDepth ≠ some State.reset.stack.length ∧
    (callOn [1]).cfg.stackDepth ≠ some (callOn [1]).stack.length ∧
    (callOn [1, 2]).cfg.stackDepth = some (callOn [1, 2]).stack.length := by decide
theorem witness_JumpSetsThePc : (prog 0x1200 State.reset).Running ∧ (prog 0x1200 State.reset).IdleLoop :=
  ⟨rfl, 0x200#12, by decide, by decide⟩
theorem witness_flag_registers : (0xE#4 ≠ 0xF#4) ∧ ∃ k : Nibble, k ≠ 0xE#4 ∧ k ≠ 0xF#4 := by decide
/-- Addresses just before and just after the stored bytes, where the latter end at the top of memory. -/
theorem witness_StoreDecimalDigits : ∀ j < 3, memIndex 0x0FFC#16 ≠ memIndex ((State.reset.setIndex 0x0FFD#16).ea j) ∧
    memIndex 0x0000#16 ≠ memIndex ((State.reset.setIndex 0x0FFD#16).ea j) := by
  intro j hj
  simp only [memIndex, State.ea, State.setIndex, Config.memSize, BitVec.toNat_add, BitVec.toNat_ofNat]
  omega
theorem witness_StoreRegisters : ∀ j ≤ (0xF#4).toNat,
    memIndex 0x0FEF#16 ≠ memIndex ((State.reset.setIndex 0x0FF0#16).ea j) ∧
    memIndex 0x0000#16 ≠ memIndex ((State.reset.setIndex 0x0FF0#16).ea j) := by
  intro j hj
  simp only [memIndex, State.ea, State.setIndex, Config.memSize, BitVec.toNat_add, BitVec.toNat_ofNat] at hj ⊢
  omega
theorem witness_StoreThenLoadRestores : ∃ t u : State, exec (.storeRegs 0xF#4) State.reset = .next t ∧
    u.index = State.reset.index ∧ u.memory = t.memory := ⟨_, { State.reset with memory := _ }, rfl, rfl, rfl⟩

theorem witness_DrawXorsTheSprite : ¬ ((waiting false).cfg.q.displayWait = true ∧ (waiting false).drawLatch = true) ∧
    ¬ (State.reset.cfg.q.displayWait = true ∧ (State.reset.setDrawLatch true).drawLatch = true) := by decide
/-- A cell that is on meets a sprite pixel that is 1, at the last column and row (V43-3). -/
theorem witness_SpritePixel : (sprite 126 62 [0xC0] [(63, 30)]).SpritePixel 126 62 1 63 30 ∧
    Display.cell (sprite 126 62 [0xC0] [(63, 30)]).fb 63 30 = true :=
  ⟨⟨0, by decide, 1, by decide, by decide, by decide, by decide, by decide⟩, by decide⟩
theorem witness_HeldDrawRewinds : (waiting true).cfg.q.displayWait = true ∧ (waiting true).drawLatch = true := by decide
theorem witness_DrawTwiceRestores : ∃ t u, (0x0#4 ≠ 0xF#4) ∧ (0xE#4 ≠ 0xF#4) ∧ State.reset.cfg.q.displayWait = false ∧
    exec (.drw 0x0#4 0xE#4 0x5#4) State.reset = .next t ∧ exec (.drw 0x0#4 0xE#4 0x5#4) t = .next u :=
  ⟨_, _, by decide, by decide, rfl, rfl, rfl⟩
/-- Both clauses where they meet: 15 is a key, 16 is not. -/
theorem witness_KeySkips : ((keyAt 15 15 true).reg 2).toNat = (0xF#4).toNat ∧ 16 ≤ ((keyAt 16 0 true).reg 2).toNat := by
  decide

/-- The five clauses, the third at the lowest and at the highest key. -/
theorem witness_KeyWaitTransitions :
    State.reset.kw = .idle ∧
    ((inWait .waitingForPress [3] [3] 0).kw = .waitingForPress ∧ ∀ k, ¬ (Keys.pressed (inWait .waitingForPress [3] [3] 0).keysOnEntry k =
      false ∧ Keys.pressed (inWait .waitingForPress [3] [3] 0).keys k = true)) ∧
    (∀ k ∈ [0x0#4, 0xF#4], (inWait .waitingForPress [] [k] 0).kw = .waitingForPress ∧
      Keys.pressed (inWait .waitingForPress [] [k] 0).keysOnEntry k = false ∧
      Keys.pressed (inWait .waitingForPress [] [k] 0).keys k = true ∧
      ∀ j : Nibble, j.toNat < k.toNat → ¬ (Keys.pressed (inWait .waitingForPress [] [k] 0).keysOnEntry j = false ∧
        Keys.pressed (inWait .waitingForPress [] [k] 0).keys j = true)) ∧
    ((inWait .waitingForRelease [] [3] 3).kw = .waitingForRelease ∧ Keys.pressed (inWait .waitingForRelease [] [3] 3).keys 3 = true) ∧
    ((inWait .waitingForRelease [] [] 3).kw = .waitingForRelease ∧ Keys.pressed (inWait .waitingForRelease [] [] 3).keys 3 = false) := by
  refine ⟨?_, ?_, ?_, ?_, ?_⟩ <;> decide

theorem witness_PressAndReleaseCompletesTheWait : (inWait .idle [] [] 0).Running ∧ (inWait .idle [] [] 0).kw = .idle ∧
    decode (inWait .idle [] [] 0).fetch = some (.ldVxK 0x5#4) ∧ Keys.pressed (inWait .idle [] [] 0).keys 0xF = false := by
  decide
theorem witness_SoundTimerIsNeverRead : ∃ t, exec (.ldStVx 0xF#4) State.reset = .next t := ⟨_, rfl⟩

end Sys2Proof.Tests
end

section
/-! What no instruction writes (spec/00_scope.md R6, spec/10_state.md R27, R35): the configuration and the key latch are inputs of a step.
First the shared operations that branch or recurse, then the instructions, then the step and the events. -/

namespace Sys2Proof.Machine

@[simp] theorem State.writeLogic_cfg (s : State) (x : Nibble) (r : Byte) : (s.writeLogic x r).cfg = s.cfg := by
  rw [State.writeLogic_frame]
@[simp] theorem State.writeLogic_keys (s : State) (x : Nibble) (r : Byte) : (s.writeLogic x r).keys = s.keys := by
  rw [State.writeLogic_frame]
@[simp] theorem State.storeRegs_cfg (s : State) (base : Word) (n : Nat) : (s.storeRegs base n).cfg = s.cfg := by
  rw [State.storeRegs_frame]
@[simp] theorem State.storeRegs_keys (s : State) (base : Word) (n : Nat) : (s.storeRegs base n).keys = s.keys := by
  rw [State.storeRegs_frame]
@[simp] theorem State.loadRegs_cfg (s : State) (base : Word) (n : Nat) : (s.loadRegs base n).cfg = s.cfg := by
  rw [State.loadRegs_frame]
@[simp] theorem State.loadRegs_keys (s : State) (base : Word) (n : Nat) : (s.loadRegs base n).keys = s.keys := by
  rw [State.loadRegs_frame]

/-- `t` has the configuration and the key latch of `s`. -/
def State.SameInputs (s t : State) : Prop := t.cfg = s.cfg ∧ t.keys = s.keys

theorem State.skipOnKey_sameInputs (s : State) (x : Nibble) (p : Bool) : s.SameInputs (s.skipOnKey x p) := by
  obtain ⟨_, hskip⟩ | ⟨_, hskip⟩ := s.skipOnKey_cases x p <;> rw [hskip]
  · exact ⟨State.raise_cfg .., State.raise_keys ..⟩
  · exact ⟨State.setPc_cfg .., State.setPc_keys ..⟩

theorem execRet_sameInputs {s t : State} (h : execRet s = .next t) : s.SameInputs t := by
  unfold execRet at h
  split at h <;> cases h
  · exact ⟨State.raise_cfg .., State.raise_keys ..⟩
  · exact ⟨by simp, by simp⟩

theorem execCall_sameInputs {nnn : Addr12} {s t : State} (h : execCall nnn s = .next t) : s.SameInputs t := by
  unfold execCall at h
  split at h <;> cases h
  · exact ⟨State.raise_cfg .., State.raise_keys ..⟩
  · exact ⟨by simp, by simp⟩

theorem execDrw_sameInputs {x y n : Nibble} {s t : State} (h : execDrw x y n s = .next t) : s.SameInputs t := by
  unfold execDrw at h
  split at h <;> cases h
  · exact ⟨State.setPc_cfg .., State.setPc_keys ..⟩
  · exact ⟨by simp, by simp⟩

/-- The key wait reads the key latch and never writes it (R27, R152): its records are fields of their own. -/
theorem execLdVxK_sameInputs {x : Nibble} {s t : State} (h : execLdVxK x s = .next t) : s.SameInputs t := by
  unfold execLdVxK at h
  split at h
  · cases h
    exact ⟨by simp, by simp⟩
  all_goals split at h <;> cases h <;> exact ⟨by simp, by simp⟩

/-- No instruction writes the configuration or the key latch: the meanings that branch have their lemmas above, every
other one is a straight line of updates of other fields. -/
theorem exec_sameInputs {i : Instr} {s t : State} (h : exec i s = .next t) : s.SameInputs t := by
  cases i with
  | ret => exact execRet_sameInputs h
  | call nnn => exact execCall_sameInputs h
  | drw x y n => exact execDrw_sameInputs h
  | ldVxK x => exact execLdVxK_sameInputs h
  | skp x => cases h; exact s.skipOnKey_sameInputs x true
  | sknp x => cases h; exact s.skipOnKey_sameInputs x false
  | _ => cases h; exact ⟨by simp, by simp⟩

/-- A step of any kind, a no-op on a halted machine or an unknown word too, keeps the configuration and the keys. -/
theorem step_sameInputs {s t : State} (h : step s = .next t) : s.SameInputs t := by
  obtain ⟨_, rfl⟩ | ⟨_, i, _, hexec⟩ | ⟨_, _, rfl⟩ := step_cases h
  · exact ⟨rfl, rfl⟩
  · simpa [State.SameInputs] using exec_sameInputs hexec
  · exact ⟨by simp, by simp⟩

theorem applyEvent_cfg {e : Event} {s t : State} (h : applyEvent e s = .next t) : t.cfg = s.cfg := by
  cases e with
  | step => exact (step_sameInputs h).1
  | timersTick => cases h; simp
  | setKey k pressed => cases h; simp

/-- Settles O18: every meaning keeps both fields, and the two host events keep the configuration. -/
theorem configurationAndKeysAreNotWritten : Obligations.ConfigurationAndKeysAreNotWritten :=
  ⟨fun _ _ _ h => applyEvent_cfg h, fun _ _ h => (step_sameInputs h).2⟩

end Sys2Proof.Machine
end

section
/-! The state as a whole (spec/10_state.md): which meaning changes which part of it, `pc` and the call stack after a
step, the key-wait invariants, and the reset values. First what the operations and meanings that branch can do, each
said once; every obligation is then a case split over the instruction or the event. -/

namespace Sys2Proof.Machine

/-! The operations and meanings that branch: the ways each answers a next state. -/

/-- A key skip touches `pc` and the fault latch only. -/
theorem State.skipOnKey_frame (s : State) (x : Nibble) (p : Bool) :
    s.skipOnKey x p = { s with pc := (s.skipOnKey x p).pc, fault := (s.skipOnKey x p).fault } := by
  obtain ⟨_, hskip⟩ | ⟨_, hskip⟩ := s.skipOnKey_cases x p <;> rw [hskip] <;> rfl

theorem State.skipOnKey_pc (s : State) (x : Nibble) (p : Bool) :
    (s.skipOnKey x p).pc =
      if (s.reg x).toNat < 16 ∧ Keys.pressed s.keys ((s.reg x).setWidth 4) = p then s.pc + 2 else s.pc := by
  obtain ⟨hx, hskip⟩ | ⟨hx, hskip⟩ := s.skipOnKey_cases x p <;> rw [hskip]
  · simp [Nat.not_lt.mpr hx]
  · simp [hx]

theorem execRet_cases {s t : State} (h : execRet s = .next t) :
    (s.stack = [] ∧ t = s.raise .stackUnderflow) ∨
    (∃ top rest, s.stack = top :: rest ∧ t = (s.setStack rest).setPc top) := by
  unfold execRet at h
  split at h <;> cases h
  · exact .inl ⟨‹_›, rfl⟩
  · exact .inr ⟨_, _, ‹_›, rfl⟩

theorem execCall_cases {nnn : Addr12} {s t : State} (h : execCall nnn s = .next t) :
    (s.cfg.stackDepth = some s.stack.length ∧ t = s.raise .stackOverflow) ∨
    (s.cfg.stackDepth ≠ some s.stack.length ∧ t = (s.setStack (s.pc :: s.stack)).setPc (zextAddr nnn)) := by
  unfold execCall at h
  split at h <;> cases h
  · exact .inl ⟨‹_›, rfl⟩
  · exact .inr ⟨‹_›, rfl⟩

/-- Which screen, flag and latch a draw that is not held writes is the display's matter (R141) and stays open here. -/
theorem execDrw_cases {x y n : Nibble} {s t : State} (h : execDrw x y n s = .next t) :
    (s.drawHeld = true ∧ t = s.setPc (s.pc - 2)) ∨
    (s.drawHeld = false ∧ ∃ fb flag latch, t = ((s.setFb fb).setReg flagReg flag).setDrawLatch latch) := by
  unfold execDrw at h
  cases hheld : s.drawHeld with
  | true => rw [if_pos hheld] at h; cases h; exact .inl ⟨rfl, rfl⟩
  | false => rw [if_neg (by simp [hheld])] at h; cases h; exact .inr ⟨rfl, _, _, _, rfl⟩

/-- The five ways of FX0A (R152, R153). -/
theorem execLdVxK_cases {x : Nibble} {s t : State} (h : execLdVxK x s = .next t) :
    (s.kw = .idle ∧ t = ((s.setKeysOnEntry s.keys).setKw .waitingForPress).setPc (s.pc - 2)) ∨
    (s.kw = .waitingForPress ∧ t = s.setPc (s.pc - 2)) ∨
    (s.kw = .waitingForPress ∧ ∃ k, s.firstFresh = some k ∧
      t = ((s.setCapturedKey k).setKw .waitingForRelease).setPc (s.pc - 2)) ∨
    (s.kw = .waitingForRelease ∧ t = s.setPc (s.pc - 2)) ∨
    (s.kw = .waitingForRelease ∧ t = (s.setReg x (s.capturedKey.setWidth 8)).setKw .idle) := by
  unfold execLdVxK at h
  cases hkw : s.kw <;> simp only [hkw] at h
  case idle => cases h; simp
  case waitingForPress => split at h <;> cases h <;> simp [*]
  case waitingForRelease => split at h <;> cases h <;> simp

/-! What the meanings that may put `pc` elsewhere leave in it. -/

theorem execRet_pc {s t : State} (h : execRet s = .next t) : t.pc = s.stack.headD s.pc := by
  obtain ⟨hs, rfl⟩ | ⟨_, _, hs, rfl⟩ := execRet_cases h <;> simp [hs]

theorem execDrw_pc {x y n : Nibble} {s t : State} (h : execDrw x y n s = .next t) :
    t.pc = if s.drawHeld = true then s.pc - 2 else s.pc := by
  obtain ⟨hheld, rfl⟩ | ⟨hheld, _, _, _, rfl⟩ := execDrw_cases h <;> simp [hheld]

theorem execLdVxK_pc {x : Nibble} {s t : State} (h : execLdVxK x s = .next t) :
    t.pc = if s.kw = .waitingForRelease ∧ t.kw = .idle then s.pc else s.pc - 2 := by
  obtain ⟨hkw, rfl⟩ | ⟨hkw, rfl⟩ | ⟨hkw, _, _, rfl⟩ | ⟨hkw, rfl⟩ | ⟨hkw, rfl⟩ := execLdVxK_cases h <;> simp [hkw]

theorem execLdVxK_memory {x : Nibble} {s t : State} (h : execLdVxK x s = .next t) : t.memory = s.memory := by
  obtain ⟨_, rfl⟩ | ⟨_, rfl⟩ | ⟨_, _, _, rfl⟩ | ⟨_, rfl⟩ | ⟨_, rfl⟩ := execLdVxK_cases h <;> rfl

/-! Who writes what (R20 to R32). -/

/-- Settles O20: the register write of each meaning is one of `setReg`, `writeLogic` and `loadRegs`, and `writesReg`
names the registers of that write. -/
theorem onlyNamedRegistersChange : Obligations.OnlyNamedRegistersChange := by
  intro i s t k h hk
  cases i with
  | ret => obtain ⟨_, rfl⟩ | ⟨_, _, _, rfl⟩ := execRet_cases h <;> simp
  | call nnn => obtain ⟨_, rfl⟩ | ⟨_, rfl⟩ := execCall_cases h <;> simp
  | skp x | sknp x => cases h; rw [State.skipOnKey_frame]; rfl
  | drw x y n =>
    have hF : k ≠ flagReg := by simpa [writesReg, flagReg] using hk
    obtain ⟨_, rfl⟩ | ⟨_, _, _, _, rfl⟩ := execDrw_cases h <;> simp [hF]
  | ldVxK x =>
    have hx : k ≠ x := by simpa [writesReg] using hk
    obtain ⟨_, rfl⟩ | ⟨_, rfl⟩ | ⟨_, _, _, rfl⟩ | ⟨_, rfl⟩ | ⟨_, rfl⟩ := execLdVxK_cases h <;> simp [hx]
  | or x y | and x y | xor x y =>
    cases h
    obtain ⟨hx, hF⟩ : k ≠ x ∧ (s.cfg.q.vfReset = true → k ≠ flagReg) := by simpa [writesReg, flagReg] using hk
    rw [State.reg_writeLogic, if_neg hx, if_neg fun hreset => hF hreset.2 hreset.1]
  | storeRegs x => cases h; rw [State.storeRegs_frame]; rfl
  | loadRegs x =>
    cases h
    have hx : ¬ k.toNat < x.toNat + 1 := by simpa [writesReg, Nat.lt_succ_iff] using hk
    simp [State.reg_loadRegs s s.index (x.toNat + 1) x.isLt, hx]
  | _ => cases h; simp_all [writesReg, flagReg]

/-- Settles O21: a meaning without branches is a chain of updates whose lemmas say what each leaves; the block
transfers, the logic write and the key skip have their frames, and the meanings that branch their cases. -/
theorem onlyNamedInstructionsChangeSpecialState : Obligations.OnlyNamedInstructionsChangeSpecialState := by
  intro i s t h
  cases i with
  | ret => obtain ⟨_, rfl⟩ | ⟨_, _, _, rfl⟩ := execRet_cases h <;> simp
  | call nnn => obtain ⟨_, rfl⟩ | ⟨_, rfl⟩ := execCall_cases h <;> simp
  | drw x y n => obtain ⟨_, rfl⟩ | ⟨_, _, _, _, rfl⟩ := execDrw_cases h <;> simp
  | ldVxK x =>
    obtain ⟨_, rfl⟩ | ⟨_, rfl⟩ | ⟨_, _, _, rfl⟩ | ⟨_, rfl⟩ | ⟨_, rfl⟩ := execLdVxK_cases h <;> simp
  | skp x | sknp x => cases h; rw [State.skipOnKey_frame]; simp
  | or x y | and x y | xor x y => cases h; rw [State.writeLogic_frame]; simp
  | storeRegs x => cases h; rw [State.storeRegs_frame]; simp
  | loadRegs x => cases h; rw [State.loadRegs_frame]; simp
  | _ => cases h; simp

theorem exec_stack {i : Instr} {s t : State} (h : exec i s = .next t) :
    t.stack = s.stack ∨ i = .ret ∨ ∃ nnn, i = .call nnn := by
  obtain ⟨_, hstack, _⟩ := onlyNamedInstructionsChangeSpecialState i s t h
  exact hstack

theorem exec_keyWait {i : Instr} {s t : State} (h : exec i s = .next t) :
    (t.kw = s.kw ∧ t.keysOnEntry = s.keysOnEntry ∧ t.capturedKey = s.capturedKey) ∨ ∃ x, i = .ldVxK x := by
  obtain ⟨_, _, _, _, _, hwait, _⟩ := onlyNamedInstructionsChangeSpecialState i s t h
  exact hwait

/-! The call stack (R25). -/

/-- Settles O23: 00EE and 2NNN by their cases, any other instruction leaves the stack as O21 has it. -/
theorem depthAfterAnInstruction : Obligations.DepthAfterAnInstruction := by
  intro i s t (hrun : s.fault = none) h
  cases i with
  | ret => obtain ⟨hs, rfl⟩ | ⟨_, _, hs, rfl⟩ := execRet_cases h <;> simp [State.Running, hs, hrun]
  | call nnn => obtain ⟨_, rfl⟩ | ⟨_, rfl⟩ := execCall_cases h <;> simp [State.Running, hrun]
  | _ => simpa using exec_stack h

/-- A 2NNN pushes only where the depth differs from the bound, so that a depth within the bound is below it. -/
theorem exec_stackWithinDepth {i : Instr} {s t : State} (h : exec i s = .next t) (hs : s.StackWithinDepth) :
    t.StackWithinDepth := by
  obtain ⟨hcfg, _⟩ := exec_sameInputs h
  intro d hd
  rw [hcfg] at hd
  have hle : s.stack.length ≤ d := hs d hd
  obtain hst | rfl | ⟨nnn, rfl⟩ := exec_stack h
  · rwa [hst]
  · obtain ⟨_, rfl⟩ | ⟨top, rest, e, rfl⟩ := execRet_cases h
    · exact hle
    · rw [e] at hle
      exact Nat.le_of_succ_le hle
  · obtain ⟨_, rfl⟩ | ⟨hne, rfl⟩ := execCall_cases h
    · exact hle
    · exact Nat.lt_of_le_of_ne hle fun e => hne (by rw [hd, e])

/-- Settles O15. -/
theorem stackStaysWithinDepth : Obligations.StackStaysWithinDepth := by
  intro e s t hs h
  cases e with
  | step =>
    obtain ⟨_, rfl⟩ | ⟨_, i, _, hexec⟩ | ⟨_, _, rfl⟩ := step_cases h
    · exact hs
    · exact exec_stackWithinDepth hexec hs
    · exact hs
  | timersTick => cases h; exact hs
  | setKey k pressed => cases h; exact hs

/-! The key wait (R34, R152). -/

theorem State.fetch_congr {s t : State} (hpc : t.pc = s.pc) (hmem : t.memory = s.memory) : t.fetch = s.fetch := by
  simp only [State.fetch, State.readMem2, State.readMem, hpc, hmem]

/-- A running machine in a wait executes its FX0A. -/
theorem step_waiting {s t : State} (hs : s.WaitsAtFX0A) (hkw : s.kw ≠ .idle) (hrun : s.Running)
    (h : step s = .next t) : ∃ x, execLdVxK x (s.setPc (s.pc + 2)) = .next t := by
  obtain ⟨x, hx⟩ := hs hkw hrun
  obtain ⟨⟨_, hf⟩, _⟩ | ⟨_, i, hi, hexec⟩ | ⟨_, hi, _⟩ := step_cases h
  · simp [hrun] at hf
  · rw [hx] at hi
    cases hi
    exact ⟨x, hexec⟩
  · simp [hx] at hi

/-- FX0A run by a step leaves the memory, and the `pc` it was fetched from unless the wait ends. -/
theorem step_ldVxK {x : Nibble} {s t : State} (h : execLdVxK x (s.setPc (s.pc + 2)) = .next t) :
    t.memory = s.memory ∧ (t.pc = s.pc ∨ t.kw = .idle) := by
  refine ⟨by simpa using execLdVxK_memory h, ?_⟩
  by_cases hkw : t.kw = .idle
  · exact .inr hkw
  · exact .inl (by simpa [hkw] using execLdVxK_pc h)

theorem applyEvent_waiting {e : Event} {s t : State} (hs : s.WaitsAtFX0A) (hkw : s.kw ≠ .idle)
    (h : applyEvent e s = .next t) : t.memory = s.memory ∧ (t.pc = s.pc ∨ t.kw = .idle) := by
  cases e with
  | step =>
    by_cases hrun : s.Running
    · obtain ⟨x, hx⟩ := step_waiting hs hkw hrun h
      exact step_ldVxK hx
    · obtain ⟨_, rfl⟩ | ⟨hf, _⟩ | ⟨hf, _⟩ := step_cases h
      · exact ⟨rfl, .inl rfl⟩
      · exact absurd hf hrun
      · exact absurd hf hrun
  | timersTick => cases h; exact ⟨rfl, .inl rfl⟩
  | setKey k pressed => cases h; exact ⟨rfl, .inl rfl⟩

/-- A step that runs an instruction: FX0A is fetched again while it waits, no other instruction starts a wait. -/
theorem exec_waitsAtFX0A {i : Instr} {s t : State} (hs : s.WaitsAtFX0A) (hi : decode s.fetch = some i)
    (hrun : s.Running) (h : exec i (s.setPc (s.pc + 2)) = .next t) : t.WaitsAtFX0A := by
  intro hkw _
  have hx : ∃ x, i = .ldVxK x := by
    obtain ⟨hsame, _⟩ | hx := exec_keyWait h
    · rw [hsame] at hkw
      obtain ⟨x, hx⟩ := hs hkw hrun
      exact ⟨x, by simpa [hi] using hx⟩
    · exact hx
  obtain ⟨x, rfl⟩ := hx
  obtain ⟨hmem, hpc⟩ := step_ldVxK h
  exact ⟨x, by rw [State.fetch_congr (hpc.resolve_right hkw) hmem, hi]⟩

theorem applyEvent_waitsAtFX0A {e : Event} {s t : State} (hs : s.WaitsAtFX0A) (h : applyEvent e s = .next t) :
    t.WaitsAtFX0A := by
  cases e with
  | step =>
    obtain ⟨_, rfl⟩ | ⟨hrun, i, hi, hexec⟩ | ⟨_, _, rfl⟩ := step_cases h
    · exact hs
    · exact exec_waitsAtFX0A hs hi hrun hexec
    · intro _ hrun
      cases hrun
  | timersTick => cases h; exact hs
  | setKey k pressed => cases h; exact hs

/-- The scan of FX0A captures a fresh key only, and a fresh key was released when the wait began (R153). -/
theorem State.firstFresh_released {s : State} {k : Nibble} (h : s.firstFresh = some k) :
    Keys.pressed s.keysOnEntry k = false := by
  have hfresh := State.fresh_of_firstFresh h
  simp only [State.fresh, Bool.and_eq_true, Bool.not_eq_true'] at hfresh
  exact hfresh.1

theorem exec_capturedWasReleased {i : Instr} {s t : State} (hs : s.CapturedWasReleased)
    (h : exec i s = .next t) : t.CapturedWasReleased := by
  obtain ⟨hkw, hentry, hkey⟩ | ⟨x, rfl⟩ := exec_keyWait h
  · rwa [State.CapturedWasReleased, hkw, hentry, hkey]
  · obtain ⟨_, rfl⟩ | ⟨_, rfl⟩ | ⟨_, k, hk, rfl⟩ | ⟨_, rfl⟩ | ⟨_, rfl⟩ := execLdVxK_cases h
    · intro hkw; cases hkw
    · exact hs
    · exact fun _ => State.firstFresh_released hk
    · exact hs
    · intro hkw; cases hkw

theorem applyEvent_capturedWasReleased {e : Event} {s t : State} (hs : s.CapturedWasReleased)
    (h : applyEvent e s = .next t) : t.CapturedWasReleased := by
  cases e with
  | step =>
    obtain ⟨_, rfl⟩ | ⟨_, i, _, hexec⟩ | ⟨_, _, rfl⟩ := step_cases h
    · exact hs
    · exact exec_capturedWasReleased (s := s.setPc (s.pc + 2)) hs hexec
    · exact hs
  | timersTick => cases h; exact hs
  | setKey k pressed => cases h; exact hs

/-- Settles O14: the two invariants kept by every event, and what a wait leaves unchanged. -/
theorem keyWaitInvariantsAreKept : Obligations.KeyWaitInvariantsAreKept :=
  ⟨fun _ _ _ => applyEvent_waitsAtFX0A, fun _ _ _ => applyEvent_capturedWasReleased,
    fun _ _ _ => applyEvent_waiting⟩

/-! The program counter (R24). -/

theorem exec_of_step {s t : State} {i : Instr} (hrun : s.Running) (hi : decode s.fetch = some i)
    (h : step s = .next t) : exec i (s.setPc (s.pc + 2)) = .next t := by
  obtain ⟨⟨_, hf⟩, _⟩ | ⟨_, j, hj, hexec⟩ | ⟨_, hn, _⟩ := step_cases h
  · simp [hrun] at hf
  · rw [hi] at hj
    cases hj
    exact hexec
  · simp [hi] at hn

/-- Settles O22: a step runs the instruction with `pc` advanced by 2 already, so that a skip lands at 4, a `pc` put
back at the address fetched from, and a meaning that leaves `pc` alone at 2. -/
theorem pcAfterAStep : Obligations.PcAfterAStep := by
  intro s t i (hrun : s.fault = none) hi h
  have hexec := exec_of_step hrun hi h
  have h4 : s.pc + 2#16 + 2#16 = s.pc + 4#16 := BitVec.add_assoc ..
  cases i with
  | ret => exact execRet_pc hexec
  | call nnn => obtain ⟨_, rfl⟩ | ⟨_, rfl⟩ := execCall_cases hexec <;> simp [State.Running, hrun]
  | jpV0 x nnn => cases hexec; rfl
  | drw x y n => simpa [State.drawHeld] using execDrw_pc hexec
  | ldVxK x => simpa using execLdVxK_pc hexec
  | skp x | sknp x => cases hexec; simp [State.skipOnKey_pc, h4]
  | or x y | and x y | xor x y => cases hexec; rw [State.writeLogic_frame]; simp
  | storeRegs x => cases hexec; rw [State.storeRegs_frame]; simp
  | loadRegs x => cases hexec; rw [State.loadRegs_frame]; simp
  | _ => cases hexec; simp [h4]

/-! The reset values (R36). -/

theorem reset_readMem (a : Word) : State.reset.readMem a = memDefault (memIndex a) := rfl

/-- No byte of the default launch differs from the default memory. -/
theorem launchMemory_defaultLaunch : launchMemory defaultLaunch = [] := by
  unfold launchMemory
  rw [List.filterMap_eq_nil_iff]
  exact fun a _ => if_pos rfl

theorem memDefault_font (j : Fin 80) : memDefault (Config.fontBase + j) = fontData[j] := by
  simp [memDefault, launchByte]

theorem memDefault_outside_font {k : Nat}
    (h : ¬ (Config.fontBase ≤ k ∧ k < Config.fontBase + Config.fontLen)) : memDefault k = 0x00#8 := by
  rw [memDefault, launchByte, dif_neg h]
  simp [memFill]

/-- Settles O24. -/
theorem resetValuesOfTheDocument : Obligations.ResetValuesOfTheDocument := by
  refine ⟨?_, rfl, rfl, fun j => ?_⟩
  · rw [construct, if_neg (by decide), launchMemory_defaultLaunch]
    rfl
  · have hj : memIndex (BitVec.ofNat 16 (0x050 + j.val)) = Config.fontBase + j := by
      simp only [memIndex, BitVec.toNat_ofNat, Config.memSize, Config.fontBase]
      omega
    rw [reset_readMem, hj, memDefault_font]

/-- Settles O25. -/
theorem resetValuesOfTheDecisions : Obligations.ResetValuesOfTheDecisions := by
  refine ⟨fun k => ?_, rfl, rfl, rfl, rfl, fun k => ?_, Display.cell_clear, rfl, rfl, fun a ha => ?_⟩
  · simp [State.reg, State.reset]
  · simp [Keys.pressed, State.reset, keysReleased]
  · exact memDefault_outside_font ha

end Sys2Proof.Machine
end

section
/-! The memory port (spec/20_memory.md R53, R56, R57): read after write, and which instructions write memory. -/

namespace Sys2Proof.Machine

/-- Settles O12: the port reduces both addresses modulo 4096 by `memIndex`. -/
theorem readAfterWrite : Obligations.ReadAfterWrite :=
  State.readMem_writeMem

theorem State.readMem_congr {s t : State} (hmem : t.memory = s.memory) (a : Word) : t.readMem a = s.readMem a := by
  simp only [State.readMem, hmem]

/-- Only FX33 and FX55 write a cell: the meanings that branch keep the memory in each of their cases, the others
are updates of other fields. -/
theorem exec_memory {i : Instr} {s t : State} (hldB : ∀ x, i ≠ .ldB x) (hstore : ∀ x, i ≠ .storeRegs x)
    (h : exec i s = .next t) : t.memory = s.memory := by
  cases i with
  | ldB x => exact absurd rfl (hldB x)
  | storeRegs x => exact absurd rfl (hstore x)
  | ret => obtain ⟨_, rfl⟩ | ⟨_, _, _, rfl⟩ := execRet_cases h <;> rfl
  | call nnn => obtain ⟨_, rfl⟩ | ⟨_, rfl⟩ := execCall_cases h <;> rfl
  | drw x y n => obtain ⟨_, rfl⟩ | ⟨_, _, _, _, rfl⟩ := execDrw_cases h <;> rfl
  | ldVxK x => exact execLdVxK_memory h
  | skp x | sknp x => cases h; rw [State.skipOnKey_frame]
  | or x y | and x y | xor x y => cases h; rw [State.writeLogic_frame]
  | loadRegs x => cases h; rw [State.loadRegs_frame]; rfl
  | _ => cases h; rfl

/-- Settles O19: the other instructions keep the memory whole, hence every byte read from it. -/
theorem onlyStoresChangeMemory : Obligations.OnlyStoresChangeMemory :=
  fun _ _ _ hldB hstore h => State.readMem_congr (exec_memory hldB hstore h)

end Sys2Proof.Machine
end

section
/-! Encoding and decoding (spec/30_encoding.md R70 to R77): the two round trips, the masks of the opcode map, and the
illegal words digit by digit. -/

namespace Sys2Proof

/-- Settles O1: no format drops a bit, instruction by instruction. -/
theorem decodeOfEncode : Obligations.DecodeOfEncode := by
  intro i
  cases i with
  | cls => exact Laws.RoundTrip.cls
  | ret => exact Laws.RoundTrip.ret
  | jp nnn => exact Laws.RoundTrip.jp nnn
  | call nnn => exact Laws.RoundTrip.call nnn
  | seImm x nn => exact Laws.RoundTrip.seImm x nn
  | sneImm x nn => exact Laws.RoundTrip.sneImm x nn
  | seReg x y => exact Laws.RoundTrip.seReg x y
  | ldImm x nn => exact Laws.RoundTrip.ldImm x nn
  | addImm x nn => exact Laws.RoundTrip.addImm x nn
  | ldReg x y => exact Laws.RoundTrip.ldReg x y
  | or x y => exact Laws.RoundTrip.or x y
  | and x y => exact Laws.RoundTrip.and x y
  | xor x y => exact Laws.RoundTrip.xor x y
  | addReg x y => exact Laws.RoundTrip.addReg x y
  | sub x y => exact Laws.RoundTrip.sub x y
  | shr x y => exact Laws.RoundTrip.shr x y
  | subn x y => exact Laws.RoundTrip.subn x y
  | shl x y => exact Laws.RoundTrip.shl x y
  | sneReg x y => exact Laws.RoundTrip.sneReg x y
  | ldI nnn => exact Laws.RoundTrip.ldI nnn
  | jpV0 x nnn => exact Laws.RoundTrip.jpV0 x nnn
  | rnd x nn => exact Laws.RoundTrip.rnd x nn
  | drw x y n => exact Laws.RoundTrip.drw x y n
  | skp x => exact Laws.RoundTrip.skp x
  | sknp x => exact Laws.RoundTrip.sknp x
  | ldVxDt x => exact Laws.RoundTrip.ldVxDt x
  | ldVxK x => exact Laws.RoundTrip.ldVxK x
  | ldDtVx x => exact Laws.RoundTrip.ldDtVx x
  | ldStVx x => exact Laws.RoundTrip.ldStVx x
  | addI x => exact Laws.RoundTrip.addI x
  | ldF x => exact Laws.RoundTrip.ldF x
  | ldB x => exact Laws.RoundTrip.ldB x
  | storeRegs x => exact Laws.RoundTrip.storeRegs x
  | loadRegs x => exact Laws.RoundTrip.loadRegs x

/-- Settles O5: the decoder evaluated on each word. -/
theorem sampleWordsDecode : Obligations.SampleWordsDecode := by
  unfold Obligations.SampleWordsDecode
  decide

/-! A word is rebuilt from its free fields where its fixed digits are known. -/

theorem wordNNN_of_fieldG {g : Nibble} {w : Word} (hG : (fieldG w).toNat = g.toNat) :
    wordNNN g (fieldNNN w) = w := by
  rw [← BitVec.eq_of_toNat_eq hG, wordNNN_fields]

theorem wordXNN_of_fieldG {g : Nibble} {w : Word} (hG : (fieldG w).toNat = g.toNat) :
    wordXNN g (fieldX w) (fieldNN w) = w := by
  rw [← BitVec.eq_of_toNat_eq hG, wordXNN_fields]

theorem wordXNN_of_fieldNN {g : Nibble} {nn : Byte} {w : Word} (hG : (fieldG w).toNat = g.toNat)
    (hNN : (fieldNN w).toNat = nn.toNat) : wordXNN g (fieldX w) nn = w := by
  rw [← BitVec.eq_of_toNat_eq hNN, wordXNN_of_fieldG hG]

theorem wordXYN_of_fieldG {g : Nibble} {w : Word} (hG : (fieldG w).toNat = g.toNat) :
    wordXYN g (fieldX w) (fieldY w) (fieldN w) = w := by
  rw [← BitVec.eq_of_toNat_eq hG, wordXYN_fields]

theorem wordXYN_of_fieldN {g n : Nibble} {w : Word} (hG : (fieldG w).toNat = g.toNat)
    (hN : (fieldN w).toNat = n.toNat) : wordXYN g (fieldX w) (fieldY w) n = w := by
  rw [← BitVec.eq_of_toNat_eq hN, wordXYN_of_fieldG hG]

/-! Encoding inverts decoding, group by group. -/

/-- `w` is the word of the instruction `i`, which is well formed. -/
def IsWordOf (w : Word) (i : Instr) : Prop := i.wellFormed = true ∧ encode i = w

theorem isWordOf_of_decodeGroup0 {w : Word} {i : Instr} (h : decodeGroup0 w = some i) : IsWordOf w i := by
  unfold decodeGroup0 at h
  split at h
  · cases h; exact ⟨rfl, .symm ‹_›⟩
  · split at h <;> cases h
    exact ⟨rfl, .symm ‹_›⟩

theorem isWordOf_of_decodeGroup8 {w : Word} {i : Instr} (hG : (fieldG w).toNat = 0x8)
    (h : decodeGroup8 w = some i) : IsWordOf w i := by
  unfold decodeGroup8 at h
  split at h <;> rename_i hN <;> cases h <;> exact ⟨rfl, wordXYN_of_fieldN hG hN⟩

theorem isWordOf_of_decodeGroupE {w : Word} {i : Instr} (hG : (fieldG w).toNat = 0xE)
    (h : decodeGroupE w = some i) : IsWordOf w i := by
  unfold decodeGroupE at h
  split at h <;> rename_i hNN <;> cases h <;> exact ⟨rfl, wordXNN_of_fieldNN hG hNN⟩

theorem isWordOf_of_decodeGroupF {w : Word} {i : Instr} (hG : (fieldG w).toNat = 0xF)
    (h : decodeGroupF w = some i) : IsWordOf w i := by
  unfold decodeGroupF at h
  split at h <;> rename_i hNN <;> cases h <;> exact ⟨rfl, wordXNN_of_fieldNN hG hNN⟩

/-- The decoder branches on the group digit: the last case is that of no digit. -/
theorem isWordOf_of_decode {w : Word} {i : Instr} (h : decode w = some i) : IsWordOf w i := by
  unfold decode at h
  split at h
  next => exact isWordOf_of_decodeGroup0 h -- 00E0, 00EE
  next hG => cases h; exact ⟨rfl, wordNNN_of_fieldG hG⟩ -- 1NNN
  next hG => cases h; exact ⟨rfl, wordNNN_of_fieldG hG⟩ -- 2NNN
  next hG => cases h; exact ⟨rfl, wordXNN_of_fieldG hG⟩ -- 3XNN
  next hG => cases h; exact ⟨rfl, wordXNN_of_fieldG hG⟩ -- 4XNN
  next hG => -- 5XY0
    split at h <;> cases h
    next hN => exact ⟨rfl, wordXYN_of_fieldN hG (congrArg BitVec.toNat hN)⟩
  next hG => cases h; exact ⟨rfl, wordXNN_of_fieldG hG⟩ -- 6XNN
  next hG => cases h; exact ⟨rfl, wordXNN_of_fieldG hG⟩ -- 7XNN
  next hG => exact isWordOf_of_decodeGroup8 hG h -- 8XYn
  next hG => -- 9XY0
    split at h <;> cases h
    next hN => exact ⟨rfl, wordXYN_of_fieldN hG (congrArg BitVec.toNat hN)⟩
  next hG => cases h; exact ⟨rfl, wordNNN_of_fieldG hG⟩ -- ANNN
  next hG => cases h; exact ⟨by simp [Instr.wellFormed, topDigit_fieldNNN], wordNNN_of_fieldG hG⟩ -- BNNN
  next hG => cases h; exact ⟨rfl, wordXNN_of_fieldG hG⟩ -- CXNN
  next hG => cases h; exact ⟨rfl, wordXYN_of_fieldG hG⟩ -- DXYN
  next hG => exact isWordOf_of_decodeGroupE hG h -- EXnn
  next hG => exact isWordOf_of_decodeGroupF hG h -- FXnn
  next => cases h

/-- Settles O2: a word is rebuilt from the digits its group tests and the fields the instruction takes. -/
theorem encodeOfDecode : Obligations.EncodeOfDecode :=
  fun _ _ h => isWordOf_of_decode h

/-! The opcode map (R75, R76). What a mask keeps of a word: -/

theorem fieldG_eq_of_and_F000 {w p : Word} (h : w &&& 0xF000#16 = p) : fieldG w = fieldG p := by
  rw [← h, and_F000, fieldG_wordNNN]

theorem fields_eq_of_and_F00F {w p : Word} (h : w &&& 0xF00F#16 = p) :
    fieldG w = fieldG p ∧ fieldN w = fieldN p := by
  rw [← h, and_F00F, fieldG_wordXYN, fieldN_wordXYN]
  exact ⟨rfl, rfl⟩

theorem fields_eq_of_and_F0FF {w p : Word} (h : w &&& 0xF0FF#16 = p) :
    fieldG w = fieldG p ∧ fieldNN w = fieldNN p := by
  rw [← h, and_F0FF, fieldG_wordXNN, fieldNN_wordXNN]
  exact ⟨rfl, rfl⟩

/-- The word of an instruction matches the row it stands in. -/
theorem encode_and_mask (i : Instr) : encode i &&& (opcodeRow i).mask = (opcodeRow i).pattern := by
  cases i with
  | cls | ret => rfl
  | jp nnn | call nnn | ldI nnn | jpV0 x nnn => rw [encode, opcodeRow, and_F000, fieldG_wordNNN]; rfl
  | seImm x nn | sneImm x nn | ldImm x nn | addImm x nn | rnd x nn =>
    rw [encode, opcodeRow, and_F000, fieldG_wordXNN]; rfl
  | drw x y n => rw [encode, opcodeRow, and_F000, fieldG_wordXYN]; rfl
  | seReg x y | ldReg x y | or x y | and x y | xor x y | addReg x y | sub x y | shr x y | subn x y | shl x y
  | sneReg x y => rw [encode, opcodeRow, and_F00F, fieldG_wordXYN, fieldN_wordXYN]; rfl
  | skp x | sknp x | ldVxDt x | ldVxK x | ldDtVx x | ldStVx x | addI x | ldF x | ldB x | storeRegs x | loadRegs x =>
    rw [encode, opcodeRow, and_F0FF, fieldG_wordXNN, fieldNN_wordXNN]; rfl

/-- The row a word matches is the row of the instruction it decodes to, so that a word matches one row at most. -/
theorem map_opcodeRow_decode {w : Word} (i : Instr) (h : w &&& (opcodeRow i).mask = (opcodeRow i).pattern) :
    (decode w).map opcodeRow = some (opcodeRow i) := by
  cases i with
  | cls | ret =>
    obtain rfl := (and_FFFF w).symm.trans h
    rfl
  | jp nnn | call nnn | ldI nnn | jpV0 x nnn | seImm x nn | sneImm x nn | ldImm x nn | addImm x nn | rnd x nn
  | drw x y n =>
    rw [decode, fieldG_eq_of_and_F000 h, opcodeRow]; rfl
  | seReg x y | sneReg x y =>
    obtain ⟨hG, hN⟩ := fields_eq_of_and_F00F h
    rw [decode, hG, hN, opcodeRow]; rfl
  | ldReg x y | or x y | and x y | xor x y | addReg x y | sub x y | shr x y | subn x y | shl x y =>
    obtain ⟨hG, hN⟩ := fields_eq_of_and_F00F h
    rw [decode, hG, decodeGroup8, hN, opcodeRow]; rfl
  | skp x | sknp x =>
    obtain ⟨hG, hNN⟩ := fields_eq_of_and_F0FF h
    rw [decode, hG, decodeGroupE, hNN, opcodeRow]; rfl
  | ldVxDt x | ldVxK x | ldDtVx x | ldStVx x | addI x | ldF x | ldB x | storeRegs x | loadRegs x =>
    obtain ⟨hG, hNN⟩ := fields_eq_of_and_F0FF h
    rw [decode, hG, decodeGroupF, hNN, opcodeRow]; rfl

theorem opcodeRow_mem_opcodeMap (i : Instr) : opcodeRow i ∈ opcodeMap := by
  cases i <;> simp [opcodeMap, rowInstances, opcodeRow]

theorem opcodeMap_nodup : opcodeMap.Nodup := by decide

theorem and_mask_of_decode {w : Word} {i : Instr} (h : decode w = some i) :
    w &&& (opcodeRow i).mask = (opcodeRow i).pattern := by
  obtain ⟨_, rfl⟩ := encodeOfDecode w i h
  exact encode_and_mask i

theorem map_opcodeRow_decode_of_mem {w : Word} {r : OpcodeRow} (hr : r ∈ opcodeMap)
    (h : w &&& r.mask = r.pattern) : (decode w).map opcodeRow = some r := by
  obtain ⟨i, _, rfl⟩ := List.mem_map.mp hr
  exact map_opcodeRow_decode i h

theorem decode_eq_none_iff_no_row (w : Word) :
    decode w = none ↔ ∀ r ∈ opcodeMap, w &&& r.mask ≠ r.pattern := by
  constructor
  · intro hw r hr h
    have hrow := map_opcodeRow_decode_of_mem hr h
    rw [hw] at hrow
    cases hrow
  · intro h
    cases hw : decode w with
    | none => rfl
    | some i => exact absurd (and_mask_of_decode hw) (h _ (opcodeRow_mem_opcodeMap i))

theorem opcodeMap_disjoint {w : Word} (m n : Fin opcodeMap.length)
    (hm : w &&& opcodeMap[m].mask = opcodeMap[m].pattern) (hn : w &&& opcodeMap[n].mask = opcodeMap[n].pattern) :
    m = n := by
  have hrow : some opcodeMap[m] = some opcodeMap[n] :=
    (map_opcodeRow_decode_of_mem (List.getElem_mem m.isLt) hm).symm.trans
      (map_opcodeRow_decode_of_mem (List.getElem_mem n.isLt) hn)
  exact opcodeMap_nodup.injective_get (Option.some.inj hrow)

/-- Settles O3: both directions go through the row of the decoded instruction. -/
theorem decodeFollowsTheOpcodeMap : Obligations.DecodeFollowsTheOpcodeMap :=
  ⟨fun _ _ => and_mask_of_decode, decode_eq_none_iff_no_row, rfl, fun _ => opcodeMap_disjoint⟩

/-! The illegal words (R77), group by group. -/

theorem wordXYN_inj {g x y n g' x' y' n' : Nibble} :
    wordXYN g x y n = wordXYN g' x' y' n' ↔ g = g' ∧ x = x' ∧ y = y' ∧ n = n' := by
  constructor
  · intro h
    exact ⟨by simpa using congrArg fieldG h, by simpa using congrArg fieldX h,
      by simpa using congrArg fieldY h, by simpa using congrArg fieldN h⟩
  · rintro ⟨rfl, rfl, rfl, rfl⟩
    rfl

theorem decodeGroup0_eq_none (w : Word) : decodeGroup0 w = none ↔ w ≠ 0x00E0#16 ∧ w ≠ 0x00EE#16 := by
  unfold decodeGroup0
  split
  · simp [*]
  · split <;> simp [*]

theorem decodeGroup0_wordXYN_eq_none (x y n : Nibble) :
    decodeGroup0 (wordXYN 0x0#4 x y n) = none ↔ ¬ (x = 0x0#4 ∧ y = 0xE#4 ∧ (n = 0x0#4 ∨ n = 0xE#4)) := by
  have hcls : 0x00E0#16 = wordXYN 0x0#4 0x0#4 0xE#4 0x0#4 := rfl
  have hret : 0x00EE#16 = wordXYN 0x0#4 0x0#4 0xE#4 0xE#4 := rfl
  rw [decodeGroup0_eq_none, hcls, hret, Ne, Ne, wordXYN_inj, wordXYN_inj]
  tauto

/-- The low digits of group 8 that no row has are 8 to D and F. -/
theorem decodeGroup8_eq_none (w : Word) :
    decodeGroup8 w = none ↔ 8 ≤ (fieldN w).toNat ∧ fieldN w ≠ 0xE#4 := by
  have hN := (fieldN w).isLt
  rw [Ne, ← BitVec.toNat_inj]
  unfold decodeGroup8
  split
  case h_10 => simp only [imp_false, true_iff, BitVec.toNat_ofNat] at *; omega
  all_goals simp [*]

theorem decodeGroupE_eq_none (w : Word) : decodeGroupE w = none ↔ fieldNN w ∉ [0x9E#8, 0xA1#8] := by
  unfold decodeGroupE
  split <;> simp_all [← BitVec.toNat_inj]

theorem decodeGroupF_eq_none (w : Word) : decodeGroupF w = none ↔
    fieldNN w ∉ [0x07#8, 0x0A#8, 0x15#8, 0x18#8, 0x1E#8, 0x29#8, 0x33#8, 0x55#8, 0x65#8] := by
  unfold decodeGroupF
  split <;> simp_all [← BitVec.toNat_inj]

/-- The low byte of a word whose two low digits are `p`. -/
def lowByte (p : Nibble × Nibble) : Byte := BitVec.ofNat 8 (p.1.toNat * 16 + p.2.toNat)

theorem lowByte_injective : Function.Injective lowByte := by
  intro ⟨y, n⟩ ⟨y', n'⟩ h
  simp only [lowByte, ← BitVec.toNat_inj, BitVec.toNat_ofNat] at h
  simp only [Prod.mk.injEq, ← BitVec.toNat_inj]
  omega

theorem fieldNN_wordXYN_mem_map_lowByte (g x y n : Nibble) (l : List (Nibble × Nibble)) :
    fieldNN (wordXYN g x y n) ∈ l.map lowByte ↔ (y, n) ∈ l := by
  rw [show fieldNN (wordXYN g x y n) = lowByte (y, n) from fieldNN_wordXYN g x y n,
    List.mem_map_of_injective lowByte_injective]

theorem decodeGroupE_wordXYN_eq_none (g x y n : Nibble) :
    decodeGroupE (wordXYN g x y n) = none ↔ (y, n) ∉ [(0x9#4, 0xE#4), (0xA#4, 0x1#4)] := by
  rw [decodeGroupE_eq_none, ← fieldNN_wordXYN_mem_map_lowByte g x y n]
  rfl

theorem decodeGroupF_wordXYN_eq_none (g x y n : Nibble) :
    decodeGroupF (wordXYN g x y n) = none ↔
      (y, n) ∉ [(0x0#4, 0x7#4), (0x0#4, 0xA#4), (0x1#4, 0x5#4), (0x1#4, 0x8#4), (0x1#4, 0xE#4), (0x2#4, 0x9#4),
        (0x3#4, 0x3#4), (0x5#4, 0x5#4), (0x6#4, 0x5#4)] := by
  rw [decodeGroupF_eq_none, ← fieldNN_wordXYN_mem_map_lowByte g x y n]
  rfl

/-- The other ten groups have no illegal word; the decoder's last case, a digit of 16 or more, does not occur. -/
theorem decode_eq_none_iff_group (w : Word) :
    decode w = none ↔
      (fieldG w = 0x0#4 ∧ decodeGroup0 w = none) ∨ (fieldG w = 0x5#4 ∧ fieldN w ≠ 0x0#4) ∨
      (fieldG w = 0x8#4 ∧ decodeGroup8 w = none) ∨ (fieldG w = 0x9#4 ∧ fieldN w ≠ 0x0#4) ∨
      (fieldG w = 0xE#4 ∧ decodeGroupE w = none) ∨ (fieldG w = 0xF#4 ∧ decodeGroupF w = none) := by
  have hG := (fieldG w).isLt
  simp only [← BitVec.toNat_inj (x := fieldG w), BitVec.toNat_ofNat]
  unfold decode
  split
  case h_17 => exfalso; simp only [imp_false] at *; omega
  all_goals simp [*]

/-- Settles O4: the digits of the word read back, and the three groups that test more than one digit. -/
theorem illegalWordsByGroup : Obligations.IllegalWordsByGroup := by
  intro g x y n
  rw [decode_eq_none_iff_group, decodeGroup8_eq_none, decodeGroupE_wordXYN_eq_none, decodeGroupF_wordXYN_eq_none,
    fieldG_wordXYN, fieldN_wordXYN]
  refine or_congr_left (and_congr_right ?_)
  rintro rfl
  exact decodeGroup0_wordXYN_eq_none x y n

end Sys2Proof
end

section
/-! The step cycle (spec/30_encoding.md R74): what a step answers in each of its three cases, and that no instruction
is without an answer. -/

namespace Sys2Proof.Machine

theorem step_of_halted {s : State} {f : Fault} (hf : s.fault = some f) : step s = .next s := by
  rw [step, stepCycle, hf]

theorem step_of_decode {s : State} {i : Instr} (hrun : s.Running) (hi : decode s.fetch = some i) :
    step s = exec i (s.setPc (s.pc + 2)) := by
  rw [step, stepCycle, hrun]
  simp only [State.dispatch, hi, State.preIncrement]

theorem step_of_illegal {s : State} (hrun : s.Running) (hi : decode s.fetch = none) :
    step s = .next ((s.setPc (s.pc + 2)).raise (.unknownOpcode s.fetch)) := by
  rw [step, stepCycle, hrun]
  simp only [State.dispatch, hi, State.preIncrement]

/-- Settles O6: the two bytes joined are the fetched word. -/
theorem stepRunsTheDecodedInstruction : Obligations.StepRunsTheDecodedInstruction :=
  fun _ _ hrun hi => step_of_decode hrun hi

theorem execRet_answers (s : State) : ∃ t, execRet s = .next t := by
  unfold execRet
  split <;> exact ⟨_, rfl⟩

theorem execCall_answers (nnn : Addr12) (s : State) : ∃ t, execCall nnn s = .next t := by
  unfold execCall
  split <;> exact ⟨_, rfl⟩

theorem execDrw_answers (x y n : Nibble) (s : State) : ∃ t, execDrw x y n s = .next t := by
  unfold execDrw
  split <;> exact ⟨_, rfl⟩

theorem execLdVxK_answers (x : Nibble) (s : State) : ∃ t, execLdVxK x s = .next t := by
  unfold execLdVxK
  split
  · exact ⟨_, rfl⟩
  all_goals split <;> exact ⟨_, rfl⟩

/-- No arm of `exec` refuses: the meanings that branch answer on each branch, the others are one update. -/
theorem exec_answers (i : Instr) (s : State) : ∃ t, exec i s = .next t := by
  cases i with
  | ret => exact execRet_answers s
  | call nnn => exact execCall_answers nnn s
  | drw x y n => exact execDrw_answers x y n s
  | ldVxK x => exact execLdVxK_answers x s
  | _ => exact ⟨_, rfl⟩

/-- Settles O9: the three ways of a step. -/
theorem everyStepAnswersNext : Obligations.EveryStepAnswersNext := by
  intro s
  cases hf : s.fault with
  | some f => exact ⟨s, step_of_halted hf⟩
  | none =>
    cases hi : decode s.fetch with
    | some i =>
      rw [step_of_decode hf hi]
      exact exec_answers i _
    | none => exact ⟨_, step_of_illegal hf hi⟩

end Sys2Proof.Machine
end

section
/-! Control transfer (spec/40_control_transfer.md R100 to R107): return, jumps, call and skips. First the two meanings
that branch, the skip, and the digits the register skips test; then the obligations. -/

namespace Sys2Proof.Machine

/-! 00EE and 2NNN, whose answer hangs on the call stack (R100, R102). -/

theorem execRet_of_empty {s : State} (hs : s.stack = []) : execRet s = .next (s.raise .stackUnderflow) := by
  rw [execRet, hs]

theorem execRet_of_cons {s : State} {top : Word} {rest : List Word} (hs : s.stack = top :: rest) :
    execRet s = .next ((s.setStack rest).setPc top) := by
  rw [execRet, hs]

theorem execCall_of_full {s : State} (nnn : Addr12) (hs : s.cfg.stackDepth = some s.stack.length) :
    execCall nnn s = .next (s.raise .stackOverflow) :=
  if_pos hs

theorem execCall_of_room {s : State} (nnn : Addr12) (hs : s.cfg.stackDepth ≠ some s.stack.length) :
    execCall nnn s = .next ((s.setStack (s.pc :: s.stack)).setPc (zextAddr nnn)) :=
  if_neg hs

/-- Settles O31: the two forms of the stack. -/
theorem returnPopsThePc : Obligations.ReturnPopsThePc :=
  ⟨fun _ _ _ => execRet_of_cons, fun _ => execRet_of_empty⟩

/-- Settles O33: the stack is at its bound or has room. -/
theorem callPushesThePc : Obligations.CallPushesThePc :=
  ⟨fun nnn _ hs => ⟨_, execCall_of_room nnn hs, rfl, zextAddr_toNat nnn, rfl⟩,
    fun nnn _ hs => execCall_of_full nnn hs⟩

/-! 1NNN and BNNN (R101, R107). -/

/-- The jump of an idle loop undoes the pre-increment, the only change of the step before it (R207). -/
theorem step_of_idleLoop {s : State} (hrun : s.Running) (hloop : s.IdleLoop) : step s = .next s := by
  obtain ⟨nnn, hi, hpc⟩ := hloop
  calc step s = exec (.jp nnn) (s.setPc (s.pc + 2)) := step_of_decode hrun hi
    _ = .next (s.setPc (zextAddr nnn)) := rfl
    _ = .next s := by rw [← hpc]; rfl

/-- Settles O32: the decoder inverts the word of 1NNN. -/
theorem jumpSetsThePc : Obligations.JumpSetsThePc :=
  ⟨fun nnn => decodeOfEncode (.jp nnn) rfl, fun nnn _ => ⟨_, rfl, zextAddr_toNat nnn, rfl⟩,
    fun _ => step_of_idleLoop⟩

/-- An address of 12 bits and a byte never reach 65536, so that their sum is the exact one. -/
theorem toNat_zextAddr_add_zextByte (nnn : Addr12) (b : Byte) :
    (zextAddr nnn + zextByte b).toNat = nnn.toNat + b.toNat := by
  have hnnn := nnn.isLt
  have hb := b.isLt
  rw [BitVec.toNat_add, zextAddr_toNat, zextByte_toNat]
  omega

/-- Settles O36: the register the quirk selects enters as any byte does. -/
theorem offsetJump : Obligations.OffsetJump :=
  fun _ nnn _ => ⟨_, rfl, toNat_zextAddr_add_zextByte nnn _, rfl⟩

/-! The skips (R103 to R106). -/

theorem State.skipIf_of_iff (s : State) {c : Bool} {p : Prop} [Decidable p] (hc : c = true ↔ p) :
    s.skipIf c = { s with pc := if p then s.pc + 2 else s.pc } := by
  rw [State.skipIf, State.setPc, if_congr hc rfl rfl]

/-- Settles O34: each skip is read back from its word and tests what its name says. -/
theorem immediateSkips : Obligations.ImmediateSkips :=
  fun x nn => ⟨decodeOfEncode (.seImm x nn) rfl, decodeOfEncode (.sneImm x nn) rfl, fun s =>
    ⟨congrArg Host.Outcome.next (s.skipIf_of_iff beq_iff_eq),
      congrArg Host.Outcome.next (s.skipIf_of_iff bne_iff_ne)⟩⟩

theorem decode_wordXYN_5 (x y n : Nibble) :
    decode (wordXYN 0x5#4 x y n) = if n = 0x0#4 then some (.seReg x y) else none := by
  simp [decode]

theorem decode_wordXYN_9 (x y n : Nibble) :
    decode (wordXYN 0x9#4 x y n) = if n = 0x0#4 then some (.sneReg x y) else none := by
  simp [decode]

/-- Settles O35: the decoder tests the low digit, and each skip what its name says. -/
theorem registerSkips : Obligations.RegisterSkips :=
  fun x y => ⟨decode_wordXYN_5 x y, decode_wordXYN_9 x y, fun s =>
    ⟨congrArg Host.Outcome.next (s.skipIf_of_iff beq_iff_eq),
      congrArg Host.Outcome.next (s.skipIf_of_iff bne_iff_ne)⟩⟩

end Sys2Proof.Machine
end

section
/-! Load, arithmetic, logic, shift, random (spec/41_load_and_alu.md R110 to R123). First what the flagged write leaves
in each register and the results in numbers; every obligation then reads its meaning through them. -/

namespace Sys2Proof.Machine

/-! The flag write and, after it, the result write (R123): where `x` is F the result has overwritten the flag (D4). -/

theorem State.reg_writeFlagged_result (s : State) (x : Nibble) (r f : Byte) : (s.writeFlagged x r f).reg x = r := by
  simp

theorem State.reg_writeFlagged_flag (s : State) {x : Nibble} (r f : Byte) (hx : x ≠ flagReg) :
    (s.writeFlagged x r f).reg flagReg = f := by
  simp [hx.symm]

theorem State.reg_writeFlagged_other (s : State) {x k : Nibble} (r f : Byte) (hx : k ≠ x) (hF : k ≠ flagReg) :
    (s.writeFlagged x r f).reg k = s.reg k := by
  simp [hx, hF]

/-! The results in numbers (R117 to R120, R122). -/

theorem toNat_sub_byte (a b : Byte) : (a - b).toNat = (a.toNat + 256 - b.toNat) % 256 := by
  have hb := b.isLt
  rw [BitVec.toNat_sub]
  omega

theorem toNat_shiftRight_one (b : Byte) : (b >>> 1).toNat = b.toNat / 2 := by
  rw [BitVec.toNat_ushiftRight, Nat.shiftRight_eq_div_pow, pow_one]

theorem toNat_shiftLeft_one (b : Byte) : (b <<< 1).toNat = b.toNat * 2 % 256 := by
  rw [BitVec.toNat_shiftLeft, Nat.shiftLeft_eq, pow_one]

/-- Settles O38: the three share one write, whatever the result. -/
theorem logicInstructions : Obligations.LogicInstructions :=
  fun x _ s => ⟨⟨_, rfl, s.writeLogic_frame x _, fun k => s.reg_writeLogic x k _⟩,
    ⟨_, rfl, s.writeLogic_frame x _, fun k => s.reg_writeLogic x k _⟩,
    ⟨_, rfl, s.writeLogic_frame x _, fun k => s.reg_writeLogic x k _⟩⟩

/-- Settles O39: a flagged write of the sum and the carry. -/
theorem addWithCarry : Obligations.AddWithCarry := by
  intro x y s
  refine ⟨_, rfl, ?result, fun hx => ?carry, fun _ => s.reg_writeFlagged_other _ _, rfl⟩
  case result => rw [State.reg_writeFlagged_result, BitVec.toNat_add]
  case carry => exact (s.reg_writeFlagged_flag _ _ hx).trans (carryFlag_eq ..)

/-- 8XY5 and 8XY7 are one subtraction with the operands exchanged (R117, R119). -/
theorem writeFlagged_sub (s : State) (x : Nibble) (a b : Byte) {t : State}
    (ht : t = s.writeFlagged x (a - b) (noBorrowFlag a b)) :
    (t.reg x).toNat = (a.toNat + 256 - b.toNat) % 256 ∧
      (x ≠ flagReg → t.reg flagReg = if b.toNat ≤ a.toNat then 1 else 0) ∧
      (∀ k, k ≠ x → k ≠ flagReg → t.reg k = s.reg k) ∧ t = { s with v := t.v } := by
  subst ht
  refine ⟨?difference, fun hx => ?noBorrow, fun _ => s.reg_writeFlagged_other _ _, rfl⟩
  case difference => rw [State.reg_writeFlagged_result, toNat_sub_byte]
  case noBorrow => rw [State.reg_writeFlagged_flag _ _ _ hx, noBorrowFlag_eq]

/-- Settles O40: the minuend is `Vx` for 8XY5 and `Vy` for 8XY7. -/
theorem subtractWithNoBorrow : Obligations.SubtractWithNoBorrow :=
  fun x y s => ⟨⟨_, rfl, writeFlagged_sub s x (s.reg x) (s.reg y) rfl⟩,
    ⟨_, rfl, writeFlagged_sub s x (s.reg y) (s.reg x) rfl⟩⟩

/-- Settles O41: two flagged writes of the shifted source and the bit it loses. -/
theorem shiftsByOne : Obligations.ShiftsByOne := by
  intro x y s
  refine ⟨⟨_, rfl, ?half, fun hx => ?bitZero, fun _ => s.reg_writeFlagged_other _ _, rfl⟩,
    ⟨_, rfl, ?double, fun hx => ?bitSeven, fun _ => s.reg_writeFlagged_other _ _, rfl⟩⟩
  case half => rw [State.reg_writeFlagged_result, toNat_shiftRight_one, State.shiftSource_eq]
  case double => rw [State.reg_writeFlagged_result, toNat_shiftLeft_one, State.shiftSource_eq]
  case bitZero =>
    rw [← s.shiftSource_eq, ← shiftRightFlag_toNat]
    exact congrArg _ (s.reg_writeFlagged_flag _ _ hx)
  case bitSeven =>
    rw [← s.shiftSource_eq, ← shiftLeftFlag_toNat]
    exact congrArg _ (s.reg_writeFlagged_flag _ _ hx)

/-! The loads and the random byte, one register write each (R110 to R112, R121). -/

theorem State.reg_setReg_same (s : State) (x : Nibble) (b : Byte) : (s.setReg x b).reg x = b := by
  simp

theorem State.reg_setReg_other (s : State) {x k : Nibble} (b : Byte) (hx : k ≠ x) :
    (s.setReg x b).reg k = s.reg k := by
  simp [hx]

/-- Settles O37: each word is read back, and each meaning is one register write. -/
theorem loadsAndAddImmediate : Obligations.LoadsAndAddImmediate := by
  refine ⟨fun x nn => ⟨decodeOfEncode (.ldImm x nn) rfl, decodeOfEncode (.addImm x nn) rfl⟩,
    fun x y => decodeOfEncode (.ldReg x y) rfl,
    fun x nn s => ⟨_, rfl, fun k => s.reg_setReg x k nn, rfl⟩,
    fun x nn s => ⟨_, rfl, ?sum, fun _ => s.reg_setReg_other _, rfl⟩,
    fun x y s => ⟨_, rfl, fun k => s.reg_setReg x k (s.reg y), rfl⟩⟩
  case sum => rw [State.reg_setReg_same, BitVec.toNat_add]

/-- Settles O42: the byte is read before the count grows, and the one register write leaves the count. -/
theorem randomByteIsMasked : Obligations.RandomByteIsMasked :=
  fun x nn s => ⟨_, rfl, s.consumeRnd.reg_setReg_same x (s.rndByte &&& nn),
    fun _ => s.consumeRnd.reg_setReg_other _, rfl⟩

end Sys2Proof.Machine
end

section
/-! The index register and memory transfer (spec/42_index_and_memory.md R130 to R136): the instructions on `I`
alone, then those that reach memory at `I + j`, whose 16 first cells are distinct. -/

namespace Sys2Proof.Machine

/-! `I` alone (R130 to R132). -/

/-- Settles O43: the decoder inverts the word of ANNN, and the zero-extension keeps the number. -/
theorem loadIndex : Obligations.LoadIndex :=
  ⟨fun nnn => decodeOfEncode (.ldI nnn) rfl, fun nnn _ => ⟨_, rfl, zextAddr_toNat nnn, rfl⟩⟩

/-- Settles O44: the sum goes to `I`, so that no result write meets the flag in `VF`. -/
theorem addToIndex : Obligations.AddToIndex := by
  intro x s
  refine ⟨_, rfl, ?sum, fun k => ?registers, rfl⟩
  case sum => rw [State.setIndex_index, BitVec.toNat_add, zextByte_toNat]
  case registers => rw [State.setIndex_reg, State.setVF_eq, State.reg_setReg, indexOverflowFlag_eq]; rfl

/-- Settles O45: the exact product is reduced once, when it becomes a word. -/
theorem fontIndex : Obligations.FontIndex :=
  fun _ _ => ⟨_, rfl, BitVec.toNat_ofNat .., rfl⟩

/-! Effective addresses (R57, R136). -/

theorem State.ea_toNat (s : State) (j : Nat) : (s.ea j).toNat = (s.index.toNat + j) % 65536 := by
  simp [State.ea]

/-- The bytes of one transfer are different cells, also where its addresses wrap (R53). -/
theorem State.memIndex_ea_ne (s : State) {i j : Nat} (hi : i < 16) (hj : j < 16) (hij : i ≠ j) :
    memIndex (s.ea i) ≠ memIndex (s.ea j) :=
  fun h => hij (memIndex_add_inj s.index hi hj h)

/-! FX33 (R133). -/

/-- What the three writes of FX33 leave at any address, whatever the digits. -/
theorem State.readMem_writeMem_three (s : State) (b₀ b₁ b₂ : Byte) (a : Word) :
    (((s.writeMem (s.ea 0) b₀).writeMem (s.ea 1) b₁).writeMem (s.ea 2) b₂).readMem a =
      if memIndex a = memIndex (s.ea 2) then b₂ else if memIndex a = memIndex (s.ea 1) then b₁
      else if memIndex a = memIndex (s.ea 0) then b₀ else s.readMem a := by
  simp only [State.readMem_writeMem]

/-- Settles O46: the three cells differ, so that each digit is read back from its own write. -/
theorem storeDecimalDigits : Obligations.StoreDecimalDigits := by
  intro x s
  have h01 : memIndex (s.ea 0) ≠ memIndex (s.ea 1) := s.memIndex_ea_ne (by decide) (by decide) (by decide)
  have h02 : memIndex (s.ea 0) ≠ memIndex (s.ea 2) := s.memIndex_ea_ne (by decide) (by decide) (by decide)
  have h12 : memIndex (s.ea 1) ≠ memIndex (s.ea 2) := s.memIndex_ea_ne (by decide) (by decide) (by decide)
  have hI : s.index = s.ea 0 := (BitVec.add_zero s.index).symm
  refine ⟨_, rfl, ?hundreds, ?tens, ?units, fun a ha => ?frame, rfl⟩
  case hundreds =>
    rw [hI, State.readMem_writeMem_three, if_neg h02, if_neg h01, if_pos rfl]
    exact BitVec.toNat_udiv
  case tens =>
    rw [show s.index + 1 = s.ea 1 from rfl, State.readMem_writeMem_three, if_neg h12, if_pos rfl,
      BitVec.toNat_umod, BitVec.toNat_udiv]
    rfl
  case units =>
    rw [show s.index + 2 = s.ea 2 from rfl, State.readMem_writeMem_three, if_pos rfl]
    exact BitVec.toNat_umod
  case frame =>
    rw [State.readMem_writeMem_three, if_neg (ha 2 (by decide)), if_neg (ha 1 (by decide)), if_neg (ha 0 (by decide))]

/-! FX55 and FX65 (R134, R135). -/

theorem State.advanceIndex_toNat (s : State) (x : Nibble) :
    (s.advanceIndex x).index.toNat =
      if s.cfg.q.memory then s.index.toNat else (s.index.toNat + x.toNat + 1) % 65536 := by
  rw [State.advanceIndex_eq, State.setIndex_index, apply_ite BitVec.toNat, State.ea_toNat, Nat.add_assoc]

/-- After a store `I` advances as from the state before it, which had the same `I` and quirks. -/
theorem State.advanceIndex_storeRegs (s : State) (base : Word) (n : Nat) (x : Nibble) :
    (s.storeRegs base n).advanceIndex x =
      { s with memory := (s.storeRegs base n).memory, index := (s.advanceIndex x).index } := by
  rw [State.storeRegs_frame]; rfl

/-- After a load too. -/
theorem State.advanceIndex_loadRegs (s : State) (base : Word) (n : Nat) (x : Nibble) :
    (s.loadRegs base n).advanceIndex x =
      { s with v := (s.loadRegs base n).v, index := (s.advanceIndex x).index } := by
  rw [State.loadRegs_frame]; rfl

/-- Settles O47: `X + 1` is at most 16, so that no later store of the transfer meets an earlier one. -/
theorem storeRegisters : Obligations.StoreRegisters := by
  intro x s
  refine ⟨_, congrArg Host.Outcome.next (s.advanceIndex_storeRegs ..), fun k hk => ?stored, fun a ha => ?frame,
    s.advanceIndex_toNat x, rfl⟩
  case stored =>
    exact (s.readMem_storeRegs_hit s.index (x.toNat + 1) x.isLt k.toNat (Nat.lt_succ_of_le hk)).trans
      (congrArg s.reg (by rw [BitVec.ofNat_toNat, BitVec.setWidth_eq]))
  case frame =>
    exact s.readMem_storeRegs_miss s.index a (x.toNat + 1) fun j hj => ha j (Nat.le_of_lt_succ hj)

/-- Settles O48: each register is loaded from its own address, and memory is only read. -/
theorem loadRegisters : Obligations.LoadRegisters := by
  intro x s
  refine ⟨_, congrArg Host.Outcome.next (s.advanceIndex_loadRegs ..), fun k => ?registers,
    s.advanceIndex_toNat x, fun _ => rfl, rfl⟩
  case registers =>
    have hload := s.reg_loadRegs s.index (x.toNat + 1) x.isLt k
    rwa [if_congr Nat.lt_succ_iff rfl rfl] at hload

/-- Settles O49: FX65 reads `Vk` at `I + k`, where FX55 has left the old `Vk`. -/
theorem storeThenLoadRestores : Obligations.StoreThenLoadRestores := by
  intro x s t u hstore hindex hmem
  obtain ⟨t', hstore', hstored, -⟩ := storeRegisters x s
  obtain ⟨w, hload, hloaded, -⟩ := loadRegisters x u
  have ht : t' = t := Host.Outcome.next.inj (hstore'.symm.trans hstore)
  refine ⟨w, hload, fun k hk => ?_⟩
  calc w.reg k = u.readMem (u.ea k.toNat) := (hloaded k).trans (if_pos hk)
    _ = t.readMem (s.ea k.toNat) := by rw [State.readMem_congr hmem, State.ea, hindex, State.ea]
    _ = s.reg k := ht ▸ hstored k hk

end Sys2Proof.Machine
end

section
/-! The display (spec/43_display.md R140 to R145): clearing, drawing a sprite, drawing it twice, and the host's view.
First the rasterizer in terms of the pixels of R141, then the two ways of DXYN. -/

namespace Sys2Proof.Machine

/-! The rasterizer (R141): the bits it XORs into the screen are the sprite's unclipped 1 pixels. -/

/-- Clipping holds a pixel back by its column and by its row; the two tests stand in two loops. -/
theorem State.rowsBit_iff_spritePixel (s : State) (vx vy : Byte) (n : Nibble) (cx : Fin 64) (cy : Fin 32) :
    s.rowsBit (vx.toNat % 64) (vy.toNat % 32) (List.range n.toNat) cx cy = true ↔ s.SpritePixel vx vy n cx cy := by
  simp only [State.rowsBit, rowBit, State.SpritePixel, State.ea, List.any_eq_true, List.mem_range, Bool.and_eq_true,
    Bool.or_eq_true, Bool.not_eq_true', decide_eq_true_eq, ← Bool.not_eq_true, ← imp_iff_not_or]
  constructor
  · rintro ⟨r, hr, ⟨hclipY, hcy⟩, b, hb, ⟨hclipX, hcx⟩, hbit⟩
    exact ⟨r, hr, b, hb, hcx, hcy, fun hclip => ⟨hclipX hclip, hclipY hclip⟩, hbit⟩
  · rintro ⟨r, hr, b, hb, hcx, hcy, hclip, hbit⟩
    exact ⟨r, hr, ⟨fun h => (hclip h).2, hcy⟩, b, hb, ⟨fun h => (hclip h).1, hcx⟩, hbit⟩

theorem State.cell_drawSprite (s : State) (vx vy : Byte) (n : Nibble) (cx : Fin 64) (cy : Fin 32) :
    Display.cell (s.drawSprite vx vy n).1 cx cy = true ↔
      ¬ (Display.cell s.fb cx cy = true ↔ s.SpritePixel vx vy n cx cy) := by
  rw [(s.drawSprite_spec vx vy n).1, Bool.xor_iff_ne, Ne, Bool.eq_iff_iff, s.rowsBit_iff_spritePixel]

theorem State.collides_drawSprite (s : State) (vx vy : Byte) (n : Nibble) :
    (s.drawSprite vx vy n).2 = true ↔
      ∃ cx cy, Display.cell s.fb cx cy = true ∧ s.SpritePixel vx vy n cx cy := by
  simp only [(s.drawSprite_spec vx vy n).2, decide_eq_true_eq, s.rowsBit_iff_spritePixel]

/-- Where the pixels of a sprite fall is a matter of the quirks, `I` and memory, not of the screen. -/
theorem State.spritePixel_congr {s t : State} (hcfg : t.cfg = s.cfg) (hindex : t.index = s.index)
    (hmem : t.memory = s.memory) (vx vy : Byte) (n : Nibble) (cx : Fin 64) (cy : Fin 32) :
    t.SpritePixel vx vy n cx cy ↔ s.SpritePixel vx vy n cx cy := by
  simp only [State.SpritePixel, hcfg, hindex, State.readMem_congr hmem]

/-! The two ways of DXYN (R144). -/

theorem State.drawHeld_iff (s : State) : s.drawHeld = true ↔ s.cfg.q.displayWait = true ∧ s.drawLatch = true := by
  rw [State.drawHeld, Bool.and_eq_true]

theorem execDrw_of_held {s : State} (x y n : Nibble) (hheld : s.drawHeld = true) :
    execDrw x y n s = .next (s.setPc (s.pc - 2)) := by
  rw [execDrw, if_pos hheld, State.rewind_eq]

/-- The state after a draw that is not held. -/
def State.drawn (s : State) (x y n : Nibble) : State :=
  let d := s.drawSprite (s.reg x) (s.reg y) n
  ((s.setFb d.1).setReg flagReg (flagByte d.2)).setDrawLatch (s.cfg.q.displayWait || s.drawLatch)

theorem execDrw_of_not_held {s : State} (x y n : Nibble) (hheld : ¬ s.drawHeld = true) :
    execDrw x y n s = .next (s.drawn x y n) := by
  rw [execDrw, if_neg hheld]; rfl

section Drawn
variable (s : State) (x y n : Nibble)

theorem State.drawn_frame :
    s.drawn x y n = { s with
      v := (s.drawn x y n).v, fb := (s.drawn x y n).fb, drawLatch := s.cfg.q.displayWait || s.drawLatch } := rfl

theorem State.cell_drawn (cx : Fin 64) (cy : Fin 32) :
    Display.cell (s.drawn x y n).fb cx cy = true ↔
      ¬ (Display.cell s.fb cx cy = true ↔ s.SpritePixel (s.reg x) (s.reg y) n cx cy) :=
  s.cell_drawSprite (s.reg x) (s.reg y) n cx cy

theorem State.reg_drawn_flag : (s.drawn x y n).reg flagReg = flagByte (s.drawSprite (s.reg x) (s.reg y) n).2 := by
  simp [State.drawn]

theorem State.reg_drawn_other {k : Nibble} (hk : k ≠ flagReg) : (s.drawn x y n).reg k = s.reg k := by
  simp [State.drawn, hk]

theorem State.reg_drawn_flag_eq_one :
    (s.drawn x y n).reg flagReg = 1 ↔
      ∃ cx cy, Display.cell s.fb cx cy = true ∧ s.SpritePixel (s.reg x) (s.reg y) n cx cy := by
  rw [s.reg_drawn_flag, ← s.collides_drawSprite]
  cases (s.drawSprite (s.reg x) (s.reg y) n).2 <;> decide

theorem State.reg_drawn_flag_eq_zero :
    (s.drawn x y n).reg flagReg = 0 ↔
      ¬ ∃ cx cy, Display.cell s.fb cx cy = true ∧ s.SpritePixel (s.reg x) (s.reg y) n cx cy := by
  rw [s.reg_drawn_flag, ← s.collides_drawSprite]
  cases (s.drawSprite (s.reg x) (s.reg y) n).2 <;> decide

/-- After a first draw that leaves both coordinates, the sprite's pixels fall where they fell. -/
theorem State.spritePixel_drawn (hx : x ≠ flagReg) (hy : y ≠ flagReg) (cx : Fin 64) (cy : Fin 32) :
    (s.drawn x y n).SpritePixel ((s.drawn x y n).reg x) ((s.drawn x y n).reg y) n cx cy ↔
      s.SpritePixel (s.reg x) (s.reg y) n cx cy := by
  rw [s.reg_drawn_other x y n hx, s.reg_drawn_other x y n hy]
  exact State.spritePixel_congr rfl rfl rfl _ _ n cx cy

end Drawn

/-- Settles O51: the rasterizer's bits are the sprite's pixels, and its flag is `VF`. -/
theorem drawXorsTheSprite : Obligations.DrawXorsTheSprite := by
  intro x y n s hfree
  have hheld : ¬ s.drawHeld = true := mt s.drawHeld_iff.mp hfree
  exact ⟨s.drawn x y n, execDrw_of_not_held x y n hheld, s.cell_drawn x y n, (s.reg_drawn_flag_eq_one x y n).mpr,
    (s.reg_drawn_flag_eq_zero x y n).mpr, fun _ => s.reg_drawn_other x y n, fun _ => rfl, s.drawn_frame x y n⟩

/-- Settles O53: the exclusive or with the same pixels twice is the cell itself, and a pixel meets an on cell in the
second draw where it fell on an off cell in the first. -/
theorem drawTwiceRestores : Obligations.DrawTwiceRestores := by
  intro x y n s t u hx hy hwait ht hu
  have hfree : ∀ a : State, a.cfg = s.cfg → ¬ a.drawHeld = true := fun a hcfg => by
    simp [State.drawHeld, hcfg, hwait]
  obtain rfl : s.drawn x y n = t := Host.Outcome.next.inj ((execDrw_of_not_held x y n (hfree s rfl)).symm.trans ht)
  obtain rfl : (s.drawn x y n).drawn x y n = u :=
    Host.Outcome.next.inj ((execDrw_of_not_held x y n (hfree (s.drawn x y n) rfl)).symm.trans hu)
  have hflag : ((s.drawn x y n).drawn x y n).reg flagReg = 1 ↔
      ∃ cx cy, Display.cell s.fb cx cy = false ∧ s.SpritePixel (s.reg x) (s.reg y) n cx cy := by
    simp only [State.reg_drawn_flag_eq_one, s.spritePixel_drawn x y n hx hy, s.cell_drawn, ← Bool.not_eq_true]
    exact exists₂_congr fun cx cy => by tauto
  refine ⟨Display.ext_cell fun cx cy => ?screen, hflag, fun hoff => ⟨?first, hflag.trans ?second⟩⟩
  case screen =>
    rw [Bool.eq_iff_iff, State.cell_drawn, s.spritePixel_drawn x y n hx hy, s.cell_drawn]
    tauto
  case first =>
    refine (s.reg_drawn_flag_eq_zero x y n).mpr ?_
    rintro ⟨cx, cy, hon, hpixel⟩
    exact Bool.false_ne_true ((hoff cx cy hpixel).symm.trans hon)
  case second =>
    exact exists₂_congr fun cx cy => ⟨And.right, fun hpixel => ⟨hoff cx cy hpixel, hpixel⟩⟩

/-- Settles O52: the rewind is the one update of a held draw. -/
theorem heldDrawRewinds : Obligations.HeldDrawRewinds :=
  fun x y n s hwait hlatch => execDrw_of_held x y n (s.drawHeld_iff.mpr ⟨hwait, hlatch⟩)

/-- Settles O50: the screen is the one part written, and every cell of the clear screen is off. -/
theorem clearScreen : Obligations.ClearScreen :=
  ⟨sampleWordsDecode.1, fun _ => ⟨_, rfl, Display.cell_clear, rfl⟩⟩

/-! The host's view (R145). -/

theorem State.framebufferView_eq_flatten (s : State) : s.framebufferView = s.fb.flatten.toList :=
  calc s.framebufferView = (s.fb.toArray.toList.map (Array.toList ∘ Vector.toArray)).flatten := List.flatMap_def
    _ = (s.fb.toArray.map Vector.toArray).flatten.toList := by
      rw [Array.toList_flatten, Array.toList_map, List.map_map]

/-- Settles O54: an entry of the flattened rows stands at its quotient and remainder by 64. -/
theorem viewIsRowMajor : Obligations.ViewIsRowMajor := by
  intro s cx cy
  have hrow : (cy.val * 64 + cx.val) / 64 = cy.val := by omega
  have hcol : (cy.val * 64 + cx.val) % 64 = cx.val := by omega
  rw [s.framebufferView_eq_flatten]
  refine ⟨Vector.length_toList, ?_⟩
  rw [Vector.getElem?_toList, Vector.getElem?_flatten, dif_pos (by omega)]
  simp only [hrow, hcol]
  rfl

end Sys2Proof.Machine
end

section
/-! The keypad (spec/44_keypad.md R150 to R154): the host's key write, the key skips, and the key wait of FX0A. First
what each meaning answers in each of its cases, then the step that runs FX0A, then a wait as a whole. -/

namespace Sys2Proof.Machine

/-! The word a step fetches, which none of the updates of the key latch and the key wait reaches. -/

@[simp] theorem State.setKeys_fetch (s : State) (ks : Keys) : (s.setKeys ks).fetch = s.fetch := rfl
@[simp] theorem State.setKw_fetch (s : State) (w : KeyWait) : (s.setKw w).fetch = s.fetch := rfl
@[simp] theorem State.setKeysOnEntry_fetch (s : State) (ks : Keys) : (s.setKeysOnEntry ks).fetch = s.fetch := rfl
@[simp] theorem State.setCapturedKey_fetch (s : State) (k : Nibble) : (s.setCapturedKey k).fetch = s.fetch := rfl

/-! The host's key write (R154). -/

/-- Settles O30: reading after writing one key, and `setKey` as one write of the key latch. -/
theorem setKeyWritesOneKey : Obligations.SetKeyWritesOneKey :=
  fun s k p => ⟨s.setKey k p, rfl, fun j => Keys.pressed_set s.keys k j p, rfl⟩

/-! The key skips (R150, R151). -/

theorem State.skipOnKey_of_key {s : State} {x k : Nibble} (p : Bool) (hk : (s.reg x).toNat = k.toNat) :
    s.skipOnKey x p = { s with pc := if Keys.pressed s.keys k = p then s.pc + 2 else s.pc } := by
  have hlt : (s.reg x).toNat < 16 := hk ▸ k.isLt
  have hkey : (s.reg x).setWidth 4 = k := BitVec.eq_of_toNat_eq (by
    rw [BitVec.toNat_setWidth, Nat.mod_eq_of_lt hlt, hk])
  obtain ⟨hge, _⟩ | ⟨_, hskip⟩ := s.skipOnKey_cases x p
  · exact absurd hlt (Nat.not_lt.mpr hge)
  · rw [hskip, hkey]
    exact s.skipIf_of_iff beq_iff_eq

theorem State.skipOnKey_of_outOfRange {s : State} {x : Nibble} (p : Bool) (hx : 16 ≤ (s.reg x).toNat) :
    s.skipOnKey x p = s.raise .registerOutOfRange := by
  obtain ⟨_, hskip⟩ | ⟨hlt, _⟩ := s.skipOnKey_cases x p
  · exact hskip
  · exact absurd hx (Nat.not_le.mpr hlt)

/-- Settles O55: both skips are the one on a key, whose range check decides. -/
theorem keySkips : Obligations.KeySkips :=
  fun _ _ _ =>
    ⟨fun hk => ⟨congrArg Host.Outcome.next (State.skipOnKey_of_key true hk),
      congrArg Host.Outcome.next (State.skipOnKey_of_key false hk)⟩,
    fun hx => ⟨congrArg Host.Outcome.next (State.skipOnKey_of_outOfRange true hx),
      congrArg Host.Outcome.next (State.skipOnKey_of_outOfRange false hx)⟩⟩

/-! The five transitions of FX0A (R152, R153). -/

theorem State.fresh_iff (s : State) (k : Nibble) :
    s.fresh k = true ↔ Keys.pressed s.keysOnEntry k = false ∧ Keys.pressed s.keys k = true := by
  rw [State.fresh, Bool.and_eq_true, Bool.not_eq_true']

theorem State.fresh_eq_false_iff (s : State) (k : Nibble) :
    s.fresh k = false ↔ ¬ (Keys.pressed s.keysOnEntry k = false ∧ Keys.pressed s.keys k = true) := by
  rw [← s.fresh_iff, Bool.not_eq_true]

theorem execLdVxK_of_idle {s : State} (x : Nibble) (hkw : s.kw = .idle) :
    execLdVxK x s = .next ((s.setKeysOnEntry s.keys).setKw .waitingForPress).rewind := by
  rw [execLdVxK, hkw]

theorem execLdVxK_of_no_fresh {s : State} (x : Nibble) (hkw : s.kw = .waitingForPress) (hfresh : s.firstFresh = none) :
    execLdVxK x s = .next s.rewind := by
  rw [execLdVxK, hkw]
  simp only [hfresh]

theorem execLdVxK_of_fresh {s : State} {k : Nibble} (x : Nibble) (hkw : s.kw = .waitingForPress)
    (hfresh : s.firstFresh = some k) :
    execLdVxK x s = .next ((s.setCapturedKey k).setKw .waitingForRelease).rewind := by
  rw [execLdVxK, hkw]
  simp only [hfresh]

theorem execLdVxK_of_held {s : State} (x : Nibble) (hkw : s.kw = .waitingForRelease)
    (hheld : Keys.pressed s.keys s.capturedKey = true) : execLdVxK x s = .next s.rewind := by
  rw [execLdVxK, hkw]
  exact if_pos hheld

theorem execLdVxK_of_released {s : State} (x : Nibble) (hkw : s.kw = .waitingForRelease)
    (hreleased : Keys.pressed s.keys s.capturedKey = false) :
    execLdVxK x s = .next ((s.setReg x (s.capturedKey.setWidth 8)).setKw .idle) := by
  rw [execLdVxK, hkw]
  exact if_neg (by simp [hreleased])

theorem toNat_byte_of_key (k : Nibble) : (k.setWidth 8 : Byte).toNat = k.toNat :=
  BitVec.toNat_setWidth_of_le (by decide)

/-- Settles O56: one answer of FX0A per row; the scan finds the least fresh key, or none. -/
theorem keyWaitTransitions : Obligations.KeyWaitTransitions := by
  intro x s
  refine ⟨execLdVxK_of_idle x, fun hkw hnone => ?noFresh, fun k hkw hentry hnow hleast => ?capture,
    execLdVxK_of_held x, fun hkw hreleased => ?release⟩
  case noFresh =>
    exact execLdVxK_of_no_fresh x hkw (s.firstFresh_eq_none.mpr fun k => (s.fresh_eq_false_iff k).mpr (hnone k))
  case capture =>
    exact execLdVxK_of_fresh x hkw (State.firstFresh_eq_some ((s.fresh_iff k).mpr ⟨hentry, hnow⟩)
      fun j hj => (s.fresh_eq_false_iff j).mpr (hleast j hj))
  case release =>
    have hreg := s.reg_setReg_same x (s.capturedKey.setWidth 8)
    exact ⟨_, execLdVxK_of_released x hkw hreleased, (congrArg BitVec.toNat hreg).trans (toNat_byte_of_key _),
      fun _ => s.reg_setReg_other _, rfl⟩

/-! A step that runs FX0A: the rewind undoes the pre-increment. -/

theorem State.rewind_preIncrement (s : State) : s.preIncrement.rewind = s := by
  simp [State.setPc]

section Step
variable {s : State} {x : Nibble} (hrun : s.Running) (hi : decode s.fetch = some (.ldVxK x))
include hrun hi

theorem step_of_idle (hkw : s.kw = .idle) :
    step s = .next ((s.setKeysOnEntry s.keys).setKw .waitingForPress) :=
  calc step s = execLdVxK x s.preIncrement := step_of_decode hrun hi
    _ = .next ((s.setKeysOnEntry s.keys).setKw .waitingForPress).preIncrement.rewind := execLdVxK_of_idle x hkw
    _ = _ := by rw [State.rewind_preIncrement]

theorem step_of_fresh {k : Nibble} (hkw : s.kw = .waitingForPress) (hfresh : s.firstFresh = some k) :
    step s = .next ((s.setCapturedKey k).setKw .waitingForRelease) :=
  calc step s = execLdVxK x s.preIncrement := step_of_decode hrun hi
    _ = .next ((s.setCapturedKey k).setKw .waitingForRelease).preIncrement.rewind := execLdVxK_of_fresh x hkw hfresh
    _ = _ := by rw [State.rewind_preIncrement]

theorem step_of_released (hkw : s.kw = .waitingForRelease) (hreleased : Keys.pressed s.keys s.capturedKey = false) :
    step s = .next ((s.preIncrement.setReg x (s.capturedKey.setWidth 8)).setKw .idle) :=
  calc step s = execLdVxK x s.preIncrement := step_of_decode hrun hi
    _ = _ := execLdVxK_of_released x hkw hreleased

end Step

/-! A wait from its start to its end (R152, S6). -/

theorem runEvents_step {s t : State} (h : step s = .next t) (es : List Event) :
    runEvents (.step :: es) s = runEvents es t := by
  rw [runEvents, applyEvent, h]

theorem runEvents_setKey (s : State) (k : Nibble) (p : Bool) (es : List Event) :
    runEvents (.setKey k p :: es) s = runEvents es (s.setKey k p) := rfl

/-- Where nothing changed since the wait began, the press of a released key makes it the one fresh key. -/
theorem State.firstFresh_setKey {s : State} {k : Nibble} (hentry : s.keysOnEntry = s.keys)
    (hk : Keys.pressed s.keys k = false) : (s.setKey k true).firstFresh = some k := by
  have hfresh (j : Nibble) : (s.setKey k true).fresh j = true ↔ j = k := by
    by_cases hj : j = k <;> simp [State.fresh_iff, hentry, hj, hk]
  refine State.firstFresh_eq_some ((hfresh k).mpr rfl) fun j hj => ?_
  rw [← Bool.not_eq_true, hfresh]
  rintro rfl
  exact Nat.lt_irrefl _ hj

theorem Keys.set_set_of_released {ks : Keys} {k : Nibble} (hk : Keys.pressed ks k = false) :
    (ks.set k.toNat true k.isLt).set k.toNat false k.isLt = ks := by
  rw [Vector.set_set, ← hk]
  exact Vector.set_getElem_self k.isLt

/-- The machine in a wait that snapshotted its own key latch. -/
@[simp] def State.snapshotted (s : State) : State := (s.setKeysOnEntry s.keys).setKw .waitingForPress

/-- The machine in a wait that captured the key `k`, pressed since the snapshot. -/
@[simp] def State.captured (s : State) (k : Nibble) : State :=
  ((s.snapshotted.setKey k true).setCapturedKey k).setKw .waitingForRelease

/-- The machine after a wait that wrote `k`, released again, to `Vx`. -/
def State.completed (s : State) (x k : Nibble) : State :=
  (((s.captured k).setKey k false).preIncrement.setReg x (k.setWidth 8)).setKw .idle

section Wait
variable {s : State} {x k : Nibble} (hrun : s.Running) (hi : decode s.fetch = some (.ldVxK x))
include hrun hi

theorem step_snapshotted_setKey (hk : Keys.pressed s.keys k = false) :
    step (s.snapshotted.setKey k true) = .next (s.captured k) :=
  step_of_fresh (s := s.snapshotted.setKey k true) hrun (by simpa using hi) rfl
    (State.firstFresh_setKey (s := s.snapshotted) rfl hk)

theorem step_captured_setKey : step ((s.captured k).setKey k false) = .next (s.completed x k) :=
  step_of_released (s := (s.captured k).setKey k false) (by simpa [State.Running] using hrun)
    (by simpa using hi) (by simp) (by simp)

/-- The schedule of S6, event by event. -/
theorem runEvents_press_release (hkw : s.kw = .idle) (hk : Keys.pressed s.keys k = false) :
    runEvents [.step, .setKey k true, .step, .setKey k false, .step] s = .next (s.completed x k) := by
  rw [runEvents_step (step_of_idle hrun hi hkw), runEvents_setKey, ← State.snapshotted,
    runEvents_step (step_snapshotted_setKey hrun hi hk), runEvents_setKey,
    runEvents_step (step_captured_setKey hrun hi), runEvents]

end Wait

theorem State.reg_completed (s : State) (x k j : Nibble) :
    (s.completed x k).reg j = if j = x then k.setWidth 8 else s.reg j := by
  simp [State.completed]

/-- The press and the release leave the key latch as it was, for the key was released before. -/
theorem State.completed_eq {s : State} {k : Nibble} (x : Nibble) (hkw : s.kw = .idle)
    (hk : Keys.pressed s.keys k = false) :
    s.completed x k = { s with
      v := (s.completed x k).v, pc := (s.completed x k).pc, keysOnEntry := s.keys, capturedKey := k } :=
  calc s.completed x k = { s with
        v := (s.completed x k).v, pc := (s.completed x k).pc, keysOnEntry := s.keys, capturedKey := k, kw := .idle,
        keys := (s.keys.set k.toNat true k.isLt).set k.toNat false k.isLt } := by cases s; rfl
    _ = _ := by rw [Keys.set_set_of_released hk, ← hkw]

/-- Settles O57: the schedule of S6 ends in the completed wait. -/
theorem pressAndReleaseCompletesTheWait : Obligations.PressAndReleaseCompletesTheWait := by
  intro s x k hrun hkw hi hk
  refine ⟨s.completed x k, runEvents_press_release hrun hi hkw hk, ?key, fun j hj => ?others, ?pc, ?idle,
    State.completed_eq x hkw hk⟩
  case key => rw [State.reg_completed, if_pos rfl, toNat_byte_of_key]
  case others => rw [State.reg_completed, if_neg hj]
  case pc => simp [State.completed]
  case idle => simp [State.completed]

end Sys2Proof.Machine
end

section
/-! The timers (spec/45_timers.md R160 to R163): the host's tick, once and many times, the three timer instructions,
and that no instruction reads the sound timer. -/

namespace Sys2Proof.Machine

/-! The tick (R163): the natural subtraction stops at 0 as the countdown does. -/

theorem countDown_toNat (b : Byte) : (countDown b).toNat = b.toNat - 1 := by
  unfold countDown
  split
  case isTrue hzero => rw [hzero]; rfl
  case isFalse hpos => bv_omega

theorem State.timersTick_dt_toNat (s : State) : s.timersTick.dt.toNat = s.dt.toNat - 1 :=
  countDown_toNat s.dt

theorem State.timersTick_st_toNat (s : State) : s.timersTick.st.toNat = s.st.toNat - 1 :=
  countDown_toNat s.st

/-- Settles O28: both timers count down, and the draw latch is the one other field the tick writes. -/
theorem timersTickCountsDown : Obligations.TimersTickCountsDown :=
  fun s => ⟨s.timersTick, rfl, s.timersTick_dt_toNat, s.timersTick_st_toNat, rfl, rfl⟩

theorem runEvents_timersTick (s : State) (es : List Event) :
    runEvents (.timersTick :: es) s = runEvents es s.timersTick := rfl

/-- Settles O29, by induction on the number of ticks: the first takes 1, the others the rest. -/
theorem manyTicksSaturate : Obligations.ManyTicksSaturate := by
  intro n
  induction n with
  | zero => exact fun s => ⟨s, rfl, rfl, rfl⟩
  | succ n ih =>
    intro s
    obtain ⟨t, hrun, hdt, hst⟩ := ih s.timersTick
    refine ⟨t, (runEvents_timersTick s _).trans hrun, ?delay, ?sound⟩
    case delay => rw [hdt, s.timersTick_dt_toNat, Nat.sub_sub, Nat.add_comm]
    case sound => rw [hst, s.timersTick_st_toNat, Nat.sub_sub, Nat.add_comm]

/-! The timer instructions (R160 to R162). -/

/-- Settles O58: each word is read back, and each meaning is one write. -/
theorem timerInstructions : Obligations.TimerInstructions :=
  ⟨fun x => ⟨decodeOfEncode (.ldVxDt x) rfl, decodeOfEncode (.ldDtVx x) rfl, decodeOfEncode (.ldStVx x) rfl⟩,
    fun x s => ⟨⟨_, rfl, fun k => s.reg_setReg x k s.dt, rfl⟩, rfl, rfl⟩⟩

/-! The sound timer is never read (R162). First the shared operations that branch or recurse, which a write of `st`
passes by; the plain updates do so by definition. -/

section SetSt
variable (s : State) (b : Byte)

theorem State.writeLogic_setSt (x : Nibble) (r : Byte) :
    (s.setSt b).writeLogic x r = (s.writeLogic x r).setSt b := by
  cases hreset : s.cfg.q.vfReset <;> simp only [State.writeLogic, State.setSt_cfg, hreset] <;> rfl

theorem State.skipOnKey_setSt (x : Nibble) (p : Bool) :
    (s.setSt b).skipOnKey x p = (s.skipOnKey x p).setSt b := by
  cases hkey : keyIndex (s.reg x) <;> simp only [State.skipOnKey, State.setSt_reg, hkey] <;> rfl

theorem State.storeRegs_setSt (base : Word) (n : Nat) :
    (s.setSt b).storeRegs base n = (s.storeRegs base n).setSt b := by
  induction n with
  | zero => rfl
  | succ n ih => rw [State.storeRegs, ih]; rfl

theorem State.loadRegs_setSt (base : Word) (n : Nat) :
    (s.setSt b).loadRegs base n = (s.loadRegs base n).setSt b := by
  induction n with
  | zero => rfl
  | succ n ih => rw [State.loadRegs, ih]; rfl

theorem State.drawRows_setSt (sx sy : Nat) (rs : List Nat) (d : Canvas) :
    (s.setSt b).drawRows sx sy rs d = s.drawRows sx sy rs d := by
  induction rs generalizing d with
  | nil => rfl
  | cons r rs ih => rw [State.drawRows, ih]; rfl

theorem State.drawn_setSt (x y n : Nibble) : (s.setSt b).drawn x y n = (s.drawn x y n).setSt b := by
  simp only [State.drawn, State.drawSprite, State.drawRows_setSt]
  rfl

end SetSt

/-- A meaning answers the same with any value in the sound timer, and leaves that value there. -/
def IgnoresSt (meaning : State → Result) : Prop :=
  ∀ s b, ∃ t, meaning s = .next t ∧ meaning (s.setSt b) = .next (t.setSt b)

theorem execRet_ignoresSt : IgnoresSt execRet := by
  intro s b
  cases hs : s.stack with
  | nil => exact ⟨_, execRet_of_empty hs, execRet_of_empty hs⟩
  | cons top rest => exact ⟨_, execRet_of_cons hs, execRet_of_cons hs⟩

theorem execCall_ignoresSt (nnn : Addr12) : IgnoresSt (execCall nnn) := by
  intro s b
  by_cases hs : s.cfg.stackDepth = some s.stack.length
  · exact ⟨_, execCall_of_full nnn hs, execCall_of_full nnn hs⟩
  · exact ⟨_, execCall_of_room nnn hs, execCall_of_room nnn hs⟩

theorem execDrw_ignoresSt (x y n : Nibble) : IgnoresSt (execDrw x y n) := by
  intro s b
  by_cases hheld : s.drawHeld = true
  · exact ⟨_, execDrw_of_held x y n hheld, execDrw_of_held x y n hheld⟩
  · refine ⟨_, execDrw_of_not_held x y n hheld, ?_⟩
    rw [← State.drawn_setSt]
    exact execDrw_of_not_held x y n hheld

theorem execLdVxK_ignoresSt (x : Nibble) : IgnoresSt (execLdVxK x) := by
  intro s b
  cases hkw : s.kw with
  | idle => exact ⟨_, execLdVxK_of_idle x hkw, execLdVxK_of_idle x hkw⟩
  | waitingForPress =>
    cases hfresh : s.firstFresh with
    | none => exact ⟨_, execLdVxK_of_no_fresh x hkw hfresh, execLdVxK_of_no_fresh x hkw hfresh⟩
    | some k => exact ⟨_, execLdVxK_of_fresh x hkw hfresh, execLdVxK_of_fresh x hkw hfresh⟩
  | waitingForRelease =>
    cases hkey : Keys.pressed s.keys s.capturedKey with
    | true => exact ⟨_, execLdVxK_of_held x hkw hkey, execLdVxK_of_held x hkw hkey⟩
    | false => exact ⟨_, execLdVxK_of_released x hkw hkey, execLdVxK_of_released x hkw hkey⟩

/-- FX18 alone replaces the sound timer; a meaning without branches is a chain of updates of other fields. -/
theorem exec_ignoresSt (i : Instr) (hi : ∀ x, i ≠ .ldStVx x) : IgnoresSt (exec i) := by
  cases i with
  | ldStVx x => exact absurd rfl (hi x)
  | ret => exact execRet_ignoresSt
  | call nnn => exact execCall_ignoresSt nnn
  | drw x y n => exact execDrw_ignoresSt x y n
  | ldVxK x => exact execLdVxK_ignoresSt x
  | skp x => exact fun s b => ⟨_, rfl, congrArg Host.Outcome.next (s.skipOnKey_setSt b x true)⟩
  | sknp x => exact fun s b => ⟨_, rfl, congrArg Host.Outcome.next (s.skipOnKey_setSt b x false)⟩
  | or x y | and x y | xor x y => exact fun s b => ⟨_, rfl, congrArg Host.Outcome.next (s.writeLogic_setSt b x _)⟩
  | storeRegs x =>
    exact fun s b => ⟨_, rfl, congrArg (fun t : State => Host.Outcome.next (t.advanceIndex x))
      (s.storeRegs_setSt b s.index (x.toNat + 1))⟩
  | loadRegs x =>
    exact fun s b => ⟨_, rfl, congrArg (fun t : State => Host.Outcome.next (t.advanceIndex x))
      (s.loadRegs_setSt b s.index (x.toNat + 1))⟩
  | _ => exact fun _ _ => ⟨_, rfl, rfl⟩

/-- Settles O59: FX18 writes a register's value whatever the timer holds, any other instruction keeps the timer. -/
theorem soundTimerIsNeverRead : Obligations.SoundTimerIsNeverRead := by
  intro i s t b h
  by_cases hi : ∃ x, i = .ldStVx x
  · obtain ⟨x, rfl⟩ := hi
    cases h
    exact ⟨s.reg x, rfl, .inr ⟨x, rfl⟩⟩
  · obtain ⟨t', ht, hb⟩ := exec_ignoresSt i (not_exists.mp hi) s b
    obtain rfl : t' = t := Host.Outcome.next.inj (ht.symm.trans h)
    exact ⟨b, hb, .inl rfl⟩

end Sys2Proof.Machine
end

section
/-! Exceptions (spec/60_exceptions.md R170 to R182, spec/70_reset_and_hazards.md R189): the error of an instruction and
of a step as one function of the state, the halted machine, the rejected ROM, and the invariants along every schedule. -/

namespace Sys2Proof.Machine

/-! The error an instruction raises (R172 to R174), and that it is raised before any write (R177). -/

/-- The error `i` raises in the state `s`. -/
def State.errorOf (s : State) : Instr → Option Fault
  | .ret => if s.stack = [] then some .stackUnderflow else none
  | .call _ => if s.cfg.stackDepth = some s.stack.length then some .stackOverflow else none
  | .skp x | .sknp x => if 16 ≤ (s.reg x).toNat then some .registerOutOfRange else none
  | _ => none

theorem State.errorOf_eq_some_iff (s : State) (i : Instr) (f : Fault) :
    s.errorOf i = some f ↔
      (f = .stackUnderflow ∧ i = .ret ∧ s.stack = []) ∨
      (f = .registerOutOfRange ∧ ∃ x, (i = .skp x ∨ i = .sknp x) ∧ 16 ≤ (s.reg x).toNat) ∨
      (f = .stackOverflow ∧ ∃ nnn, i = .call nnn ∧ s.cfg.stackDepth = some s.stack.length) := by
  cases i <;> simp [State.errorOf, and_comm, eq_comm (a := f)]

/-- `t` is what is left of `s` by a meaning whose error is `e`: with an error the latch set and all else kept, without
one the latch kept. -/
def State.RaisesOnly (s : State) (e : Option Fault) (t : State) : Prop :=
  match e with
  | some f => t = s.raise f
  | none => t.fault = s.fault

theorem State.skipOnKey_raisesOnly (s : State) (x : Nibble) (p : Bool) :
    s.RaisesOnly (if 16 ≤ (s.reg x).toNat then some .registerOutOfRange else none) (s.skipOnKey x p) := by
  obtain ⟨hx, hskip⟩ | ⟨hx, hskip⟩ := s.skipOnKey_cases x p <;> rw [hskip]
  · rw [if_pos hx]; rfl
  · rw [if_neg (Nat.not_le.mpr hx)]; rfl

/-- Every meaning decides on its error first: the four that have one by their cases, no other touches the latch. -/
theorem exec_raisesOnly {i : Instr} {s t : State} (h : exec i s = .next t) : s.RaisesOnly (s.errorOf i) t := by
  cases i with
  | ret => obtain ⟨hs, rfl⟩ | ⟨_, _, hs, rfl⟩ := execRet_cases h <;> simp [State.errorOf, State.RaisesOnly, hs]
  | call nnn => obtain ⟨hs, rfl⟩ | ⟨hs, rfl⟩ := execCall_cases h <;> simp [State.errorOf, State.RaisesOnly, hs]
  | skp x => cases h; exact s.skipOnKey_raisesOnly x true
  | sknp x => cases h; exact s.skipOnKey_raisesOnly x false
  | drw x y n => obtain ⟨_, rfl⟩ | ⟨_, _, _, _, rfl⟩ := execDrw_cases h <;> rfl
  | ldVxK x => obtain ⟨_, rfl⟩ | ⟨_, rfl⟩ | ⟨_, _, _, rfl⟩ | ⟨_, rfl⟩ | ⟨_, rfl⟩ := execLdVxK_cases h <;> rfl
  | or x y | and x y | xor x y => cases h; rw [State.writeLogic_frame]; rfl
  | storeRegs x => cases h; rw [State.storeRegs_frame]; rfl
  | loadRegs x => cases h; rw [State.loadRegs_frame]; rfl
  | _ => cases h; rfl

/-! The error of a step (R171, R176). -/

/-- The error a step of a running machine latches. -/
def State.stepError (s : State) : Option Fault :=
  match decode s.fetch with
  | some i => s.errorOf i
  | none => some (.unknownOpcode s.fetch)

theorem step_raisesOnly {s t : State} (hrun : s.Running) (h : step s = .next t) :
    (s.setPc (s.pc + 2)).RaisesOnly s.stepError t := by
  unfold State.stepError
  obtain ⟨⟨_, hf⟩, _⟩ | ⟨_, i, hi, hexec⟩ | ⟨_, hi, rfl⟩ := step_cases h
  · simp [hrun] at hf
  · rw [hi]
    exact exec_raisesOnly hexec
  · rw [hi]
    rfl

/-- A step of a running machine latches its error, and nothing without one. -/
theorem step_fault {s t : State} (hrun : s.Running) (h : step s = .next t) : t.fault = s.stepError := by
  have hraise := step_raisesOnly hrun h
  cases herr : s.stepError with
  | none => rw [herr] at hraise; exact hraise.trans hrun
  | some f => rw [herr] at hraise; exact congrArg State.fault hraise

/-- Settles O10: the latch tells that the step has an error, and a step with an error raises it and no more. -/
theorem fatalErrorsArePrecise : Obligations.FatalErrorsArePrecise := by
  intro s t hrun h hnot
  have hraise := step_raisesOnly hrun h
  cases herr : s.stepError with
  | none => exact absurd ((step_fault hrun h).trans herr) hnot
  | some f => rw [herr] at hraise; rw [hraise]; rfl

/-- Settles O11: the fetched word decodes to none, or to an instruction with one of the three other errors. -/
theorem fatalErrorCauses : Obligations.FatalErrorCauses := by
  intro s t f hrun h
  rw [step_fault hrun h, State.stepError]
  cases hi : decode s.fetch with
  | none => simp [eq_comm]
  | some i => simp [State.errorOf_eq_some_iff]

/-- Settles O7. -/
theorem unknownOpcodeIsLatched : Obligations.UnknownOpcodeIsLatched :=
  fun _ hrun hi => step_of_illegal hrun hi

/-! The halted machine (R179). -/

theorem applyEvent_of_halted {e : Event} {s t : State} {f : Fault} (hf : s.fault = some f)
    (h : applyEvent e s = .next t) : t.fault = some f := by
  cases e with
  | step =>
    obtain rfl : s = t := Host.Outcome.next.inj ((step_of_halted hf).symm.trans h)
    exact hf
  | timersTick => cases h; exact hf
  | setKey k pressed => cases h; exact hf

/-- Settles O8. -/
theorem haltedMachineStaysHalted : Obligations.HaltedMachineStaysHalted :=
  fun _ _ hf => ⟨step_of_halted hf, fun _ _ => applyEvent_of_halted hf⟩

/-! Construction (R189, R200). -/

/-- Settles O27: construction tests the length first. -/
theorem oversizedRomIsRejected : Obligations.OversizedRomIsRejected :=
  fun _ => ⟨fun hlong => if_pos hlong, fun hfits => ⟨_, if_neg (Nat.not_lt.mpr hfits)⟩⟩

/-! The canonical memory (notes/assumptions/16.md): FX33 and FX55 write through the byte port, no other
instruction writes memory. -/

theorem exec_memoryCanonical {i : Instr} {s t : State} (hs : s.MemoryCanonical) (h : exec i s = .next t) :
    t.MemoryCanonical := by
  cases i with
  | ldB x => cases h; exact State.wf_writeMem _ _ _ (State.wf_writeMem _ _ _ (State.wf_writeMem _ _ _ hs))
  | storeRegs x => cases h; exact State.wf_storeRegs s s.index (x.toNat + 1) hs
  | _ => rwa [State.MemoryCanonical, exec_memory (by simp) (by simp) h]

theorem applyEvent_memoryCanonical {e : Event} {s t : State} (hs : s.MemoryCanonical)
    (h : applyEvent e s = .next t) : t.MemoryCanonical := by
  cases e with
  | step =>
    obtain ⟨_, rfl⟩ | ⟨_, i, _, hexec⟩ | ⟨_, _, rfl⟩ := step_cases h
    · exact hs
    · exact exec_memoryCanonical (s := s.setPc (s.pc + 2)) hs hexec
    · exact hs
  | timersTick => cases h; exact hs
  | setKey k pressed => cases h; exact hs

/-! Invariants along a schedule (R181, R182). -/

theorem runEvents_cons {e : Event} {es : List Event} {s t : State} (h : runEvents (e :: es) s = .next t) :
    ∃ u, applyEvent e s = .next u ∧ runEvents es u = .next t := by
  rw [runEvents] at h
  split at h
  · exact ⟨_, ‹_›, h⟩
  · cases h
  · cases h

/-- What every event keeps, every schedule keeps. -/
theorem runEvents_keeps {P : State → Prop} (hkeep : ∀ e s t, P s → applyEvent e s = .next t → P t)
    {es : List Event} {s t : State} (hs : P s) (h : runEvents es s = .next t) : P t := by
  induction es generalizing s with
  | nil => cases h; exact hs
  | cons e es ih =>
    obtain ⟨u, he, hes⟩ := runEvents_cons h
    exact ih (hkeep e s u hs he) hes

/-- The four invariants of the machine. -/
def State.Invariants (s : State) : Prop :=
  s.MemoryCanonical ∧ s.WaitsAtFX0A ∧ s.CapturedWasReleased ∧ s.StackWithinDepth

theorem applyEvent_invariants (e : Event) (s t : State) (hs : s.Invariants) (h : applyEvent e s = .next t) :
    t.Invariants := by
  obtain ⟨hmem, hwait, hcaptured, hstack⟩ := hs
  exact ⟨applyEvent_memoryCanonical hmem h, applyEvent_waitsAtFX0A hwait h,
    applyEvent_capturedWasReleased hcaptured h, stackStaysWithinDepth e s t hstack h⟩

/-- A constructed machine lists its ROM canonically, waits for no key and has an empty stack. -/
theorem construct_invariants {l : Launch} {s : State} (h : construct l = .ok s) : s.Invariants := by
  obtain ⟨_, rfl⟩ := construct_ok h
  exact ⟨wf_launchMemory l, fun hkw => absurd rfl hkw, nofun, fun d _ => Nat.zero_le d⟩

/-- Settles O17: construction gives the invariants and every event keeps them. -/
theorem invariantsHoldOnEveryRun : Obligations.InvariantsHoldOnEveryRun :=
  fun _ _ _ _ hl hes => runEvents_keeps applyEvent_invariants (construct_invariants hl) hes

end Sys2Proof.Machine
end

section
/-! Construction (spec/70_reset_and_hazards.md R200, spec/20_memory.md R51): the memory map a launch loads, and the
invariants a machine starts with and keeps. -/

namespace Sys2Proof.Machine

/-! The three regions of the memory map (R51): each address below 4096 lies in one of them, and the font ends before
the ROM begins. -/

theorem launchByte_font (font : Vector Byte 80) (fill : Byte) (rom : List Byte) (j : Fin 80) :
    launchByte font fill rom (0x050 + j.val) = font[j] := by
  have hfont : Config.fontBase ≤ 0x050 + j.val ∧ 0x050 + j.val < Config.fontBase + Config.fontLen := by
    simp [j.isLt]
  rw [launchByte, dif_pos hfont]
  simp

theorem launchByte_rom (font : Vector Byte 80) (fill : Byte) {rom : List Byte} {j : Nat} (hj : j < rom.length) :
    launchByte font fill rom (0x200 + j) = rom[j] := by
  have hfont : ¬ (Config.fontBase ≤ 0x200 + j ∧ 0x200 + j < Config.fontBase + Config.fontLen) := by
    simp only [Config.fontBase, Config.fontLen]; omega
  rw [launchByte, dif_neg hfont, if_pos (Nat.le_add_right ..), Nat.add_sub_cancel_left, List.getD_eq_getElem _ _ hj]

theorem launchByte_elsewhere (font : Vector Byte 80) (fill : Byte) {rom : List Byte} {a : Nat}
    (hfont : ¬ (0x050 ≤ a ∧ a < 0x0A0)) (hrom : ¬ (0x200 ≤ a ∧ a < 0x200 + rom.length)) :
    launchByte font fill rom a = fill := by
  have hoff : ¬ (Config.fontBase ≤ a ∧ a < Config.fontBase + Config.fontLen) := hfont
  rw [launchByte, dif_neg hoff]
  split
  case isTrue hprog =>
    have hend : rom.length ≤ a - Config.progBase := by simp only [Config.progBase] at hprog ⊢; omega
    exact List.getD_eq_default _ _ hend
  case isFalse => rfl

/-- Below 4096 the port reads a constructed memory at the address itself. -/
theorem readMem_of_construct {l : Launch} {s : State} (h : construct l = .ok s) {a : Word} (ha : a.toNat < 4096) :
    s.readMem a = launchByte l.fontData l.memFill l.rom a.toNat := by
  obtain ⟨_, rfl⟩ := construct_ok h
  have hindex : memIndex a = a.toNat := Nat.mod_eq_of_lt ha
  rw [State.readMem, hindex, read_launchMemory l _ ha]

theorem readMem_ofNat_of_construct {l : Launch} {s : State} (h : construct l = .ok s) {k : Nat} (hk : k < 4096) :
    s.readMem (BitVec.ofNat 16 k) = launchByte l.fontData l.memFill l.rom k := by
  have hword : (BitVec.ofNat 16 k).toNat = k := by
    rw [BitVec.toNat_ofNat]; omega
  rw [readMem_of_construct h (by omega), hword]

/-- Settles O26: the memory reads region by region, and everything else is as `construct_ok` says. -/
theorem constructionLoadsTheRom : Obligations.ConstructionLoadsTheRom := by
  intro l s h
  obtain ⟨hlen, hs⟩ := construct_ok h
  refine ⟨?pc, ?cfg, fun j => ?font, fun j hj => ?rom, fun a ha hfont hrom => ?fill, ?rest⟩
  case pc => rw [hs]; rfl
  case cfg => rw [hs]
  case font => rw [readMem_ofNat_of_construct h (by omega), launchByte_font]
  case rom => rw [readMem_ofNat_of_construct h (by omega), launchByte_rom _ _ hj]
  case fill => rw [readMem_of_construct h ha, launchByte_elsewhere _ _ hfont hrom]
  case rest => rw [hs]

/-- Settles O13: the two storing instructions write through the byte port, which keeps the form; no other event
writes memory. -/
theorem memoryStaysCanonical : Obligations.MemoryStaysCanonical :=
  fun _ _ _ => applyEvent_memoryCanonical

/-- Settles O16: the reset state is the machine of the default launch (O24), and every constructed machine meets the
invariants. -/
theorem resetMeetsTheInvariants : Obligations.ResetMeetsTheInvariants := by
  obtain ⟨hmem, hwait, hcaptured, hstack⟩ := construct_invariants resetValuesOfTheDocument.1
  exact ⟨hmem, hwait, hcaptured, hstack, rfl⟩

end Sys2Proof.Machine
end
